-- ==== Sys2Proof/Word.lean ====
section
/-! DEFINITION. The word types of the machine (`00_scope.md` R8, R9): a word is 32 bits, a halfword 16, a byte 8. -/

namespace Sys2Proof

/-- A word: the width of every general register and of the status words (R7 `XLEN`, R8). -/
abbrev Word := BitVec 32

/-- A halfword (R8). -/
abbrev Half := BitVec 16

/-- A byte (R8). -/
abbrev Byte := BitVec 8

end Sys2Proof
end

