-- ==== Sys2Proof/Machine/Bits.lean ====
section
/-! DEFINITION. The bit and byte helpers of `00_scope.md` R8, R9 and the byte order of `20_memory.md` R60. -/

namespace Sys2Proof.Machine

/-- `ROR32(v, n)`, `0 ≤ n ≤ 31` (R9). -/
def ror32 (v : Word) (n : Nat) : Word := if n = 0 then v else v >>> n ||| v <<< (32 - n)

/-- Sign-extension of the low `n` bits of a word (R9). -/
def sext (n : Nat) (v : Word) : Word := (v.setWidth n).signExtend 32

/-- `v & ~3`: the word boundary at or below an address (R62). -/
def alignWord (a : Word) : Word := a &&& 0xFFFFFFFC#32

/-- `v & ~1`: the halfword boundary at or below an address (R63). -/
def alignHalf (a : Word) : Word := a &&& 0xFFFFFFFE#32

/-- `a[1:0]` as a number (R62). -/
def byteLane (a : Word) : Nat := (a.extractLsb' 0 2).toNat

/-- Byte `i` of a word, byte 0 the least significant (R60). -/
def byteOf (v : Word) (i : Nat) : Byte := v.extractLsb' (8 * i) 8

/-- The zero-extended value of the `n` bytes `f 0`, …, `f (n - 1)`, low byte first (R60). -/
def fromBytes (f : Nat → Byte) : Nat → Word
  | 0 => 0
  | n + 1 => fromBytes f n ||| (f n).setWidth 32 <<< (8 * n)

/-- `lo` below `hi`, each the zero-extended value of `n` bytes (R86). -/
def joinParts (n : Nat) (lo hi : Word) : Word := lo ||| hi <<< (8 * n)

/-- The numbers of the one bits below `n`, ascending (R144). -/
def setBits {w : Nat} (v : BitVec w) (n : Nat) : List Nat := (List.range n).filter fun i => v.getLsbD i

end Sys2Proof.Machine
end

