-- ==== Sys2Proof/Config.lean ====
section
/-! DEFINITION. The implementation parameters of `00_scope.md` R7 and the model's free values.
The OPEN parameters and those with two values are the record `Params`, which `State` carries and no step
changes; the free values are constants without a body, of which nothing can be proved. -/

namespace Sys2Proof.Config

/-- `UND_POLICY` (R7, R267): what the undefined, coprocessor and breakpoint tags do. -/
inductive UndPolicy where
  | fatal
  | vector
  deriving DecidableEq, Repr

/-- `CYCLE_MODEL` (R7, R180): the count of a step is computed, or is any natural number of at least 1. -/
inductive CycleModel where
  | table
  | draw
  deriving DecidableEq, Repr

/-- The cycles of one access to an external device: a number, or the backup-storage cost of R106, which reads
WAITCNT. R84 leaves the number to the platform, so 0 is admitted, although R181 counts on a fetch costing at least 1
(DESIGN CHOICE, log 29). -/
inductive CostFigure where
  | cycles (n : Nat)
  | backup
  deriving DecidableEq, Repr

/-- The figures of one address: by the width and the kind of the access. -/
structure CostFigures where
  read8 : CostFigure
  read16 : CostFigure
  read32 : CostFigure
  write8 : CostFigure
  write16 : CostFigure
  write32 : CostFigure
  deriving DecidableEq, Repr

/-- Figures for the addresses of [start, stop). -/
structure CostRange where
  start : Nat
  stop : Nat
  figures : CostFigures
  deriving DecidableEq, Repr

/-- The cost function `cost(addr, n, is_write)` of an external device (R71) as a table: the first range that holds the
address gives the figures, an address of no range takes those of `rest`. A device has finitely many addresses, so
every cost function is such a table (DESIGN CHOICE, log 30). -/
structure DeviceCost where
  ranges : List CostRange
  rest : CostFigures
  deriving DecidableEq, Repr

/-- The figures of an address. -/
def DeviceCost.figuresAt (c : DeviceCost) (a : Nat) : CostFigures :=
  match c.ranges.find? (fun r => decide (r.start ≤ a) && decide (a < r.stop)) with
  | some r => r.figures
  | none => c.rest

/-- The cost of a device with one figure per width, for reads and writes alike (the `ext` rows of R101). -/
def fixedCost (c8 c16 c32 : Nat) : DeviceCost where
  ranges := []
  rest := ⟨.cycles c8, .cycles c16, .cycles c32, .cycles c8, .cycles c16, .cycles c32⟩

/-- The cost of backup storage (R106). -/
def backupCost : DeviceCost where
  ranges := []
  rest := ⟨.backup, .backup, .backup, .backup, .backup, .backup⟩

/-- What an external device answers. `storage` is a plain byte array at its own addresses. `foreign` is any
other device: the spec "assumes nothing of them" (R69), so each byte it answers is a free value. -/
inductive DeviceKind where
  | storage
  | foreign
  deriving DecidableEq, Repr

/-- A mapped device of `EXT_DEVICES` (R71): the range [start, stop), the six optional operations by width,
the cost, and what it answers. -/
structure ExtDevice where
  start : Nat
  stop : Nat
  read8 : Bool
  read16 : Bool
  read32 : Bool
  write8 : Bool
  write16 : Bool
  write32 : Bool
  cost : DeviceCost
  kind : DeviceKind
  deriving DecidableEq, Repr

/-- The cost of palette RAM as an external device (R79, R101). -/
def paletteCost : DeviceCost := fixedCost 1 1 2

/-- The cost of video RAM as an external device (R79, R101). -/
def videoCost : DeviceCost := fixedCost 1 1 2

/-- The cost of object attribute RAM as an external device (R79, R101). -/
def objectCost : DeviceCost := fixedCost 1 1 1

/-- The parameters of the hardware (R7) that are not fixed numbers. They are parameters of the step
function, not machine state (R54): `State` carries them because `step` has no other argument (DESIGN CHOICE, log 2). -/
structure Params where
  /-- `SENTINEL8`, OPEN: the byte an unmapped byte read returns (R87). -/
  sentinel8 : Byte
  /-- `ROM_SIZE`, OPEN, at most 0x02000000 (R7, R80). -/
  romSize : Nat
  /-- `EXT_DEVICES`, OPEN, in registration order (R72). -/
  extDevices : List ExtDevice
  undPolicy : UndPolicy
  /-- `DMA_PRESENT` (R7). -/
  dmaPresent : Bool
  cycleModel : CycleModel
  deriving DecidableEq, Repr

/-- The value of the OPEN parameter `SENTINEL8` in the default parameters: not fixed (D12; DESIGN CHOICE, log 3). -/
opaque sentinel8 : Byte

/-- The count a step returns under `CYCLE_MODEL = draw`, less 1, for the given draw (R180): not fixed
(DESIGN CHOICE, log 7). -/
opaque drawCycles : Nat → Nat

/-- The byte a `foreign` device answers at the given access count and address (R69): not fixed
(DESIGN CHOICE, log 6). -/
opaque foreignByte : Nat → Nat → Byte

/-- The parameters with every default of R7; no cartridge image is loaded (DESIGN CHOICE,
log 3). -/
def defaultParams : Params where
  sentinel8 := sentinel8
  romSize := 0
  extDevices := []
  undPolicy := .fatal
  dmaPresent := false
  cycleModel := .table

/-- `HALT_TICK_CYCLES` (R7). -/
def haltTickCycles : Nat := 1

/-- `RESET_GPR` (R7): the reset value of every general register and saved status word. -/
def resetGpr : Word := 0

/-- The length of `BIOS_IMAGE` (R7). -/
def biosSize : Nat := 0x4000

/-- The largest `ROM_SIZE` (R7). -/
def romMax : Nat := 0x02000000

/-- The size of EWRAM (R46, R76). -/
def ewramSize : Nat := 0x40000

/-- The size of IWRAM (R46, R77). -/
def iwramSize : Nat := 0x8000

end Sys2Proof.Config
end

