-- ==== Sys2Proof/Syntax.lean ====
section
/-! DEFINITION. The instructions as syntax: operand forms, the decoder's format tags (`30_encoding.md` R120),
and `Instr`, one constructor per row of the opcode table in the table's order. Register numbers, conditions,
shift kinds and addressing modes are names here; immediates stay the bit fields they are. -/

namespace Sys2Proof

/-- A register number r0 to r15 (R20). -/
abbrev Reg := Fin 16

/-- A THUMB 3-bit register number r0 to r7 (R146). -/
abbrev LoReg := Fin 8

/-- A low register as a register number (R146). -/
def LoReg.toReg (r : LoReg) : Reg := ⟨r.val, by omega⟩

/-- The sixteen condition codes in code order (R162); `nv` is the reserved code 0b1111. -/
inductive Cond where
  | eq | ne | cs | cc | mi | pl | vs | vc | hi | ls | ge | lt | gt | le | al | nv
  deriving DecidableEq, Repr

/-- The four shift kinds in `type` order (R125). -/
inductive ShiftKind where
  | lsl | lsr | asr | ror
  deriving DecidableEq, Repr

/-- The second operand of data processing (R125): a rotated immediate, a register shifted by an immediate
field, or a register shifted by a register. -/
inductive Operand2 where
  | imm (rot : BitVec 4) (imm8 : BitVec 8)
  | regImm (rm : Reg) (kind : ShiftKind) (imm5 : BitVec 5)
  | regReg (rm : Reg) (kind : ShiftKind) (rs : Reg)
  deriving DecidableEq, Repr

/-- Pre-indexed with or without write-back, or post-indexed (R131, R132). -/
inductive Index where
  | pre (writeBack : Bool)
  | post
  deriving DecidableEq, Repr

/-- The offset of a single data transfer (R132). -/
inductive WordOffset where
  | imm (off12 : BitVec 12)
  | reg (rm : Reg) (kind : ShiftKind) (imm5 : BitVec 5)
  deriving DecidableEq, Repr

/-- The offset of a halfword transfer (R131). -/
inductive HalfOffset where
  | imm (off8 : BitVec 8)
  | reg (rm : Reg)
  deriving DecidableEq, Repr

/-- The four block addressing modes (R255). -/
inductive BlockMode where
  | ia | ib | da | db
  deriving DecidableEq, Repr

/-- Which status word MRS and MSR name, bit P (R126). -/
inductive StatusWord where
  | cpsr
  | spsr
  deriving DecidableEq, Repr

/-- The closed enumeration of format tags, ARM and THUMB (R120). -/
inductive Tag where
  | aBX | aB | aDP | aMUL | aMULL | aSDT | aHDT | aBDT | aSWP | aSWI | aCDT | aCDO | aCRT | aBKPT | aUND
  | tF1 | tF2 | tF3 | tF4 | tF5 | tF6 | tF7 | tF8 | tF9 | tF10 | tF11 | tF12 | tF13 | tF14 | tF15 | tF16 | tF17
  | tF18 | tF19 | tUND | tBKPT | tUBLX
  deriving DecidableEq, Repr

/-- One constructor per row of the opcode table, in its order. An ARM constructor begins with its condition
(R124); fields that decode and execution ignore (R150) are left out, fields of an illegal word are kept. -/
inductive Instr where
  /-- R262 -/
  | armBx (c : Cond) (rn : Reg)
  /-- R265 -/
  | armBkpt (c : Cond) (imm12 : BitVec 12) (imm4 : BitVec 4)
  /-- R220 -/
  | armMul (c : Cond) (sf : Bool) (rd rs rm : Reg)
  /-- R221 -/
  | armMla (c : Cond) (sf : Bool) (rd rn rs rm : Reg)
  /-- R223 -/
  | armUmull (c : Cond) (sf : Bool) (rdHi rdLo rs rm : Reg)
  /-- R224 -/
  | armUmlal (c : Cond) (sf : Bool) (rdHi rdLo rs rm : Reg)
  /-- R225 -/
  | armSmull (c : Cond) (sf : Bool) (rdHi rdLo rs rm : Reg)
  /-- R226 -/
  | armSmlal (c : Cond) (sf : Bool) (rdHi rdLo rs rm : Reg)
  /-- R256 -/
  | armSwp (c : Cond) (rn rd rm : Reg)
  /-- R257 -/
  | armSwpb (c : Cond) (rn rd rm : Reg)
  /-- R263, list entry A6: bits 24:8 and 3:0 -/
  | armUndMulSwap (c : Cond) (hi : BitVec 17) (lo : BitVec 4)
  /-- R263, list entry A7: bits 24:21, 19:8, 5 and 3:0 -/
  | armUndLdrdStrd (c : Cond) (puiw : BitVec 4) (mid : BitVec 12) (h : Bool) (lo : BitVec 4)
  /-- R240 -/
  | armLdrh (c : Cond) (ix : Index) (up : Bool) (off : HalfOffset) (rn rd : Reg)
  /-- R241 -/
  | armStrh (c : Cond) (ix : Index) (up : Bool) (off : HalfOffset) (rn rd : Reg)
  /-- R242 -/
  | armLdrsb (c : Cond) (ix : Index) (up : Bool) (off : HalfOffset) (rn rd : Reg)
  /-- R243 -/
  | armLdrsh (c : Cond) (ix : Index) (up : Bool) (off : HalfOffset) (rn rd : Reg)
  /-- R207 -/
  | armMrs (c : Cond) (p : StatusWord) (rd : Reg)
  /-- R207, the words with bit 25 = 1 -/
  | armMrsBit25 (c : Cond) (p : StatusWord) (rd : Reg)
  /-- R208 -/
  | armMsrReg (c : Cond) (p : StatusWord) (fsxc : BitVec 4) (rm : Reg)
  /-- R209 -/
  | armMsrImm (c : Cond) (p : StatusWord) (fsxc rot : BitVec 4) (imm8 : BitVec 8)
  /-- R191 -/
  | armAnd (c : Cond) (sf : Bool) (rd rn : Reg) (op2 : Operand2)
  /-- R192 -/
  | armEor (c : Cond) (sf : Bool) (rd rn : Reg) (op2 : Operand2)
  /-- R193 -/
  | armSub (c : Cond) (sf : Bool) (rd rn : Reg) (op2 : Operand2)
  /-- R194 -/
  | armRsb (c : Cond) (sf : Bool) (rd rn : Reg) (op2 : Operand2)
  /-- R195 -/
  | armAdd (c : Cond) (sf : Bool) (rd rn : Reg) (op2 : Operand2)
  /-- R196 -/
  | armAdc (c : Cond) (sf : Bool) (rd rn : Reg) (op2 : Operand2)
  /-- R197 -/
  | armSbc (c : Cond) (sf : Bool) (rd rn : Reg) (op2 : Operand2)
  /-- R198 -/
  | armRsc (c : Cond) (sf : Bool) (rd rn : Reg) (op2 : Operand2)
  /-- R199 -/
  | armTst (c : Cond) (rn : Reg) (op2 : Operand2)
  /-- R200 -/
  | armTeq (c : Cond) (rn : Reg) (op2 : Operand2)
  /-- R201 -/
  | armCmp (c : Cond) (rn : Reg) (op2 : Operand2)
  /-- R202 -/
  | armCmn (c : Cond) (rn : Reg) (op2 : Operand2)
  /-- R203 -/
  | armOrr (c : Cond) (sf : Bool) (rd rn : Reg) (op2 : Operand2)
  /-- R204 -/
  | armMov (c : Cond) (sf : Bool) (rd : Reg) (op2 : Operand2)
  /-- R205 -/
  | armBic (c : Cond) (sf : Bool) (rd rn : Reg) (op2 : Operand2)
  /-- R206 -/
  | armMvn (c : Cond) (sf : Bool) (rd : Reg) (op2 : Operand2)
  /-- R263, list entry A10: bits 24:5 and 3:0 -/
  | armUnd (c : Cond) (hi : BitVec 20) (lo : BitVec 4)
  /-- R234 -/
  | armLdrt (c : Cond) (up : Bool) (off : WordOffset) (rn rd : Reg)
  /-- R235 -/
  | armLdrbt (c : Cond) (up : Bool) (off : WordOffset) (rn rd : Reg)
  /-- R236 -/
  | armStrt (c : Cond) (up : Bool) (off : WordOffset) (rn rd : Reg)
  /-- R237 -/
  | armStrbt (c : Cond) (up : Bool) (off : WordOffset) (rn rd : Reg)
  /-- R230 -/
  | armLdr (c : Cond) (ix : Index) (up : Bool) (off : WordOffset) (rn rd : Reg)
  /-- R231 -/
  | armStr (c : Cond) (ix : Index) (up : Bool) (off : WordOffset) (rn rd : Reg)
  /-- R232 -/
  | armLdrb (c : Cond) (ix : Index) (up : Bool) (off : WordOffset) (rn rd : Reg)
  /-- R233 -/
  | armStrb (c : Cond) (ix : Index) (up : Bool) (off : WordOffset) (rn rd : Reg)
  /-- R250 -/
  | armLdm (c : Cond) (mode : BlockMode) (sbit w : Bool) (rn : Reg) (list : BitVec 16)
  /-- R251 -/
  | armStm (c : Cond) (mode : BlockMode) (sbit w : Bool) (rn : Reg) (list : BitVec 16)
  /-- R260 -/
  | armB (c : Cond) (off24 : BitVec 24)
  /-- R261 -/
  | armBl (c : Cond) (off24 : BitVec 24)
  /-- R269 -/
  | armLdc (c : Cond) (punw rn crd cp : BitVec 4) (off8 : BitVec 8)
  /-- R270 -/
  | armStc (c : Cond) (punw rn crd cp : BitVec 4) (off8 : BitVec 8)
  /-- R268 -/
  | armCdp (c : Cond) (opc1 crn crd cp : BitVec 4) (opc2 : BitVec 3) (crm : BitVec 4)
  /-- R271 -/
  | armMrc (c : Cond) (opc1 : BitVec 3) (crn rd cp : BitVec 4) (opc2 : BitVec 3) (crm : BitVec 4)
  /-- R272 -/
  | armMcr (c : Cond) (opc1 : BitVec 3) (crn rd cp : BitVec 4) (opc2 : BitVec 3) (crm : BitVec 4)
  /-- R264 -/
  | armSwi (c : Cond) (comment : BitVec 24)
  /-- R372 -/
  | thumbSwi (imm8 : BitVec 8)
  /-- R380, list entry T2 -/
  | thumbUndCond (imm8 : BitVec 8)
  /-- R370 -/
  | thumbBCond (c : Cond) (soff8 : BitVec 8)
  /-- R380, list entry T4 -/
  | thumbBkpt (imm8 : BitVec 8)
  /-- R327 -/
  | thumbAddSpImm (imm7 : BitVec 7)
  /-- R328 -/
  | thumbAddSpNegImm (imm7 : BitVec 7)
  /-- R350 -/
  | thumbPush (r : Bool) (rlist : BitVec 8)
  /-- R351 -/
  | thumbPop (r : Bool) (rlist : BitVec 8)
  /-- R380, the unallocated halfwords 1011 xxxx xxxxxxxx: bits 11:0 -/
  | thumbUnd1011 (low : BitVec 12)
  /-- R284 -/
  | thumbAddReg (rn rs rd : LoReg)
  /-- R285 -/
  | thumbSubReg (rn rs rd : LoReg)
  /-- R286 -/
  | thumbAddImm3 (imm3 : BitVec 3) (rs rd : LoReg)
  /-- R287 -/
  | thumbSubImm3 (imm3 : BitVec 3) (rs rd : LoReg)
  /-- R281 -/
  | thumbLslImm (imm5 : BitVec 5) (rs rd : LoReg)
  /-- R282 -/
  | thumbLsrImm (imm5 : BitVec 5) (rs rd : LoReg)
  /-- R283 -/
  | thumbAsrImm (imm5 : BitVec 5) (rs rd : LoReg)
  /-- R288 -/
  | thumbMovImm (rd : LoReg) (imm8 : BitVec 8)
  /-- R289 -/
  | thumbCmpImm (rd : LoReg) (imm8 : BitVec 8)
  /-- R290 -/
  | thumbAddImm8 (rd : LoReg) (imm8 : BitVec 8)
  /-- R291 -/
  | thumbSubImm8 (rd : LoReg) (imm8 : BitVec 8)
  /-- R292 -/
  | thumbAnd (rs rd : LoReg)
  /-- R293 -/
  | thumbEor (rs rd : LoReg)
  /-- R294 -/
  | thumbLslReg (rs rd : LoReg)
  /-- R295 -/
  | thumbLsrReg (rs rd : LoReg)
  /-- R296 -/
  | thumbAsrReg (rs rd : LoReg)
  /-- R297 -/
  | thumbAdc (rs rd : LoReg)
  /-- R298 -/
  | thumbSbc (rs rd : LoReg)
  /-- R299 -/
  | thumbRorReg (rs rd : LoReg)
  /-- R300 -/
  | thumbTst (rs rd : LoReg)
  /-- R301 -/
  | thumbNeg (rs rd : LoReg)
  /-- R302 -/
  | thumbCmpReg (rs rd : LoReg)
  /-- R303 -/
  | thumbCmn (rs rd : LoReg)
  /-- R304 -/
  | thumbOrr (rs rd : LoReg)
  /-- R305 -/
  | thumbMul (rs rd : LoReg)
  /-- R306 -/
  | thumbBic (rs rd : LoReg)
  /-- R307 -/
  | thumbMvn (rs rd : LoReg)
  /-- R380, list entry T11: bits 6:0 -/
  | thumbUndBlxReg (low : BitVec 7)
  /-- R320 -/
  | thumbAddHigh (rs rd : Reg)
  /-- R321 -/
  | thumbCmpHigh (rs rd : Reg)
  /-- R322 -/
  | thumbMovHigh (rs rd : Reg)
  /-- R323 -/
  | thumbBx (rs : Reg)
  /-- R330 -/
  | thumbLdrPc (rd : LoReg) (imm8 : BitVec 8)
  /-- R335 -/
  | thumbStrhReg (ro rb rd : LoReg)
  /-- R337 -/
  | thumbLdsbReg (ro rb rd : LoReg)
  /-- R336 -/
  | thumbLdrhReg (ro rb rd : LoReg)
  /-- R338 -/
  | thumbLdshReg (ro rb rd : LoReg)
  /-- R331 -/
  | thumbStrReg (ro rb rd : LoReg)
  /-- R332 -/
  | thumbStrbReg (ro rb rd : LoReg)
  /-- R333 -/
  | thumbLdrReg (ro rb rd : LoReg)
  /-- R334 -/
  | thumbLdrbReg (ro rb rd : LoReg)
  /-- R339 -/
  | thumbStrImm (imm5 : BitVec 5) (rb rd : LoReg)
  /-- R340 -/
  | thumbLdrImm (imm5 : BitVec 5) (rb rd : LoReg)
  /-- R341 -/
  | thumbStrbImm (imm5 : BitVec 5) (rb rd : LoReg)
  /-- R342 -/
  | thumbLdrbImm (imm5 : BitVec 5) (rb rd : LoReg)
  /-- R343 -/
  | thumbStrhImm (imm5 : BitVec 5) (rb rd : LoReg)
  /-- R344 -/
  | thumbLdrhImm (imm5 : BitVec 5) (rb rd : LoReg)
  /-- R345 -/
  | thumbStrSp (rd : LoReg) (imm8 : BitVec 8)
  /-- R346 -/
  | thumbLdrSp (rd : LoReg) (imm8 : BitVec 8)
  /-- R325 -/
  | thumbAddPc (rd : LoReg) (imm8 : BitVec 8)
  /-- R326 -/
  | thumbAddSp (rd : LoReg) (imm8 : BitVec 8)
  /-- R352 -/
  | thumbStmia (rb : LoReg) (rlist : BitVec 8)
  /-- R353 -/
  | thumbLdmia (rb : LoReg) (rlist : BitVec 8)
  /-- R373 -/
  | thumbB (off11 : BitVec 11)
  /-- R380, list entry T22: bits 10:0 -/
  | thumbUndBlxSuffix (low : BitVec 11)
  /-- R376 -/
  | thumbBlFirst (off11 : BitVec 11)
  /-- R377 -/
  | thumbBlSecond (off11 : BitVec 11)
  deriving DecidableEq, Repr

end Sys2Proof
end

