-- ==== Sys2Proof/Machine/State.lean ====
section
/-! DEFINITION. The machine's state as plain data (`10_state.md`), the reasons a step can stop, and the state after
reset (R55). Log entries 2, 3 and 6 to 9 name what stands here beside the spec's own state. -/

namespace Sys2Proof.Machine

/-- The seven modes (R31). -/
inductive Mode where
  | usr | fiq | irq | svc | abt | und | sys
  deriving DecidableEq, Repr

/-- The banks of general registers (R21). -/
inductive Bank where
  | common | hiUsr | hiFiq | slUsr | slFiq | slIrq | slSvc | slAbt | slUnd
  deriving DecidableEq, Repr

/-- The widths of an access: 1, 2 or 4 bytes (R67). -/
inductive Width where
  | byte | half | word
  deriving DecidableEq, Repr

/-- The exception kinds (R400, R403). -/
inductive ExceptionKind where
  | reset | undefined | swi | prefetchAbort | dataAbort | irq | fiq
  deriving DecidableEq, Repr

/-- How an absent saved word was accessed (R37). -/
inductive SpsrAccess where
  | read | write | restore
  deriving DecidableEq, Repr

/-- A registered device, for the overlap event (R72): the core's own by name, an external one by its place. -/
inductive DeviceId where
  | bios | ewram | iwram | io | cart
  | ext (place : Nat)
  deriving DecidableEq, Repr

/-- The reasons of `diag Unpredictable(reason)` (R50), one for each text the instruction rules give. -/
inductive Reason where
  /-- "MRS to r15" (R207) -/
  | mrsToR15
  /-- "MUL Rd = Rm" (R220) -/
  | mulRdRm
  /-- "MUL r15" (R220) -/
  | mulR15
  /-- "MULL register overlap" (R222) -/
  | mullOverlap
  /-- "MULL r15" (R222) -/
  | mullR15
  /-- "offset r15" (R238, R239) -/
  | offsetR15
  /-- "write-back to r15" (R238) -/
  | writebackR15
  /-- "LDRB to r15" (R232) -/
  | ldrbToR15
  /-- "LDRH to r15" (R240; R242 and R243 by U25) -/
  | ldrhToR15
  /-- "LDM/STM base r15" (R252) -/
  | blockBaseR15
  /-- "user-bank transfer with write-back" (R253) -/
  | userBankWriteback
  /-- "SWP r15" (R256) -/
  | swpR15
  /-- "format 5 with two low registers" (45_thumb_alu section 5) -/
  | format5LowLow
  /-- "BX pc misaligned" (R323) -/
  | bxPcMisaligned
  deriving DecidableEq, Repr

/-- The diagnostic events (R50). -/
inductive DiagEvent where
  | reservedCondition (addr opcode : Word)
  | spsrAbsent (kind : SpsrAccess)
  | staleSpsr (mode : Mode)
  | invalidModeWrite (code : BitVec 5)
  | unmappedRead (addr : Word)
  | unmappedWrite (addr : Word)
  | regionOverlap (earlier later : DeviceId)
  | unpredictable (reason : Reason)
  deriving DecidableEq, Repr

/-- The record `DecodeFailure(A, opcode, tag)` (R51). -/
structure DecodeFailure where
  addr : Word
  opcode : Word
  tag : Tag
  deriving DecidableEq, Repr

/-- A timer channel (R45, R49). -/
structure Timer where
  reload : Half
  counter : Half
  sub : Nat
  /-- TMkCNT_H -/
  ctrl : Half
  deriving DecidableEq, Repr

/-- A DMA channel: its registers, the latched copies and the running flag (R463). -/
structure DmaChannel where
  sad : Word
  dad : Word
  cntL : Half
  cntH : Half
  srcLatch : Word
  dstLatch : Word
  /-- The DAD latched at the trigger: destination step 3 goes back to it (R468; DEDUCED, log 17). -/
  dstStart : Word
  cntLatch : Nat
  running : Bool
  deriving DecidableEq, Repr

/-- A memory: its listed bytes, addresses strictly rising, no listed byte 0; an unlisted byte reads 0. The
addresses are offsets into the device (R75 to R80), bus addresses for external storage. -/
abbrev Memory := List Host.Cell

/-- Everything a step reads or writes (`10_state.md`). -/
structure State where
  /-- The parameters of R7; no step changes them (R54). -/
  params : Config.Params
  /-- The 30 physical general registers other than r15 (R21), in the order of `gprSlot`. -/
  gpr : Vector Word 30
  /-- r15: the address of the next instruction to fetch (R25). -/
  pc : Word
  cpsr : Word
  /-- SPSR_fiq, SPSR_irq, SPSR_svc, SPSR_abt, SPSR_und (R35). -/
  spsr : Vector Word 5
  /-- The tags `spsr_valid`, in the same order (R36). -/
  spsrValid : Vector Bool 5
  /-- IE (R39). -/
  ie : Half
  /-- IF (R40). -/
  iflag : Half
  /-- WAITCNT (R42). -/
  waitcnt : Half
  /-- IME (R41). -/
  ime : Word
  /-- POSTFLG (R44). -/
  postflg : Byte
  timers : Vector Timer 4
  dma : Vector DmaChannel 4
  /-- BIOS_IMAGE: no step changes it (R85, R479). -/
  bios : Memory
  ewram : Memory
  iwram : Memory
  /-- ROM_IMAGE: no step changes it (R85, R479). -/
  rom : Memory
  /-- The bytes of external storage devices, by bus address; an unlisted one is 0 (DESIGN CHOICE, log 5). -/
  extMem : Memory
  halted : Bool
  seqNext : Option Word
  lastCost : Nat
  /-- The running tally of the step (R100, R180); after a step, the count it returned
  (DESIGN CHOICE, log 8). -/
  tally : Nat
  /-- The opcode fetched in this step (R160 step 5; DESIGN CHOICE, log 8). -/
  ir : Word
  /-- The diagnostic log, oldest event first (R50). -/
  diag : List DiagEvent
  fatal : Option DecodeFailure
  cyclesTotal : Nat
  lastIrq : Option (Fin 14)
  /-- How many counts were drawn under `CYCLE_MODEL = draw` (DESIGN CHOICE, log 7). -/
  drawCount : Nat
  /-- How many reads of foreign external devices were made (DESIGN CHOICE, log 6). -/
  extCount : Nat
  deriving DecidableEq, Repr

/-- A fault of the machine: there is none. No access, alignment, privilege or arithmetic fault exists (R62, R87,
R89, R173, R440), and a fatal decode failure is the state `fatal`, after which steps do nothing (R51; DEDUCED, log 9). -/
inductive Fault where
  deriving DecidableEq, Repr

/-- Why an instruction has no meaning here. -/
inductive Refusal where
  /-- Raised by an arm of `exec` for an instruction that is not modelled; safe: the run stops. -/
  | notModelled (mnemonic : String)
  deriving DecidableEq, Repr

/-- A timer channel after reset (R49). -/
def Timer.initial : Timer := { reload := 0, counter := 0, sub := 0, ctrl := 0 }

/-- A DMA channel after reset (R463). -/
def DmaChannel.initial : DmaChannel where
  sad := 0
  dad := 0
  cntL := 0
  cntH := 0
  srcLatch := 0
  dstLatch := 0
  dstStart := 0
  cntLatch := 0
  running := false

/-- The state after reset (R55) for given parameters, images and diagnostic log. -/
def State.initial (params : Config.Params) (bios rom : Memory) (diag : List DiagEvent) : State where
  params := params
  gpr := Vector.replicate 30 Config.resetGpr
  pc := 0x00000000#32
  cpsr := 0x000000D3#32
  spsr := Vector.replicate 5 Config.resetGpr
  spsrValid := Vector.replicate 5 false
  ie := 0
  iflag := 0
  waitcnt := 0
  ime := 0
  postflg := 0
  timers := Vector.replicate 4 Timer.initial
  dma := Vector.replicate 4 DmaChannel.initial
  bios := bios
  ewram := []
  iwram := []
  rom := rom
  extMem := []
  halted := false
  seqNext := none
  lastCost := 0
  tally := 0
  ir := 0
  diag := diag
  fatal := none
  cyclesTotal := 0
  lastIrq := none
  drawCount := 0
  extCount := 0

/-- The machine right after power-on with the default parameters (R7, R55): no external device, hence no overlap
event, and no image loaded (log 3). -/
def State.reset : State := State.initial Config.defaultParams [] [] []

end Sys2Proof.Machine
end

