-- ==== Sys2Proof/Machine/Update.lean ====
section
/-! DEFINITION. One update of one field of the state each. Every other file changes the state through these, so that
what an operation leaves alone is read off the lemmas of `Sys2Proof/Laws/State.lean`. -/

namespace Sys2Proof.Machine

def State.withGpr (s : State) (i : Fin 30) (v : Word) : State := { s with gpr := s.gpr.set i v }
def State.withPc (s : State) (v : Word) : State := { s with pc := v }
def State.withCpsr (s : State) (v : Word) : State := { s with cpsr := v }
def State.withSpsr (s : State) (m : Fin 5) (v : Word) : State := { s with spsr := s.spsr.set m v }
def State.withSpsrValid (s : State) (m : Fin 5) (b : Bool) : State := { s with spsrValid := s.spsrValid.set m b }
def State.withIe (s : State) (v : Half) : State := { s with ie := v }
def State.withIflag (s : State) (v : Half) : State := { s with iflag := v }
def State.withWaitcnt (s : State) (v : Half) : State := { s with waitcnt := v }
def State.withIme (s : State) (v : Word) : State := { s with ime := v }
def State.withPostflg (s : State) (v : Byte) : State := { s with postflg := v }
def State.withTimer (s : State) (k : Fin 4) (t : Timer) : State := { s with timers := s.timers.set k t }
def State.withDma (s : State) (x : Fin 4) (c : DmaChannel) : State := { s with dma := s.dma.set x c }
def State.withEwram (s : State) (m : Memory) : State := { s with ewram := m }
def State.withIwram (s : State) (m : Memory) : State := { s with iwram := m }
def State.withExtMem (s : State) (m : Memory) : State := { s with extMem := m }
def State.withHalted (s : State) (b : Bool) : State := { s with halted := b }
def State.withSeqNext (s : State) (a : Option Word) : State := { s with seqNext := a }
def State.withLastCost (s : State) (c : Nat) : State := { s with lastCost := c }
def State.withTally (s : State) (n : Nat) : State := { s with tally := n }
def State.withIr (s : State) (w : Word) : State := { s with ir := w }
/-- Append one event to the diagnostic log (R50). -/
def State.log (s : State) (e : DiagEvent) : State := { s with diag := s.diag ++ [e] }
def State.withFatal (s : State) (r : Option DecodeFailure) : State := { s with fatal := r }
def State.withCyclesTotal (s : State) (n : Nat) : State := { s with cyclesTotal := n }
def State.withLastIrq (s : State) (i : Option (Fin 14)) : State := { s with lastIrq := i }
def State.withDrawCount (s : State) (n : Nat) : State := { s with drawCount := n }
def State.withExtCount (s : State) (n : Nat) : State := { s with extCount := n }
/-- Add cycles to the running tally of the step (R180). -/
def State.charge (s : State) (n : Nat) : State := s.withTally (s.tally + n)

/-- Log an event when a condition holds. -/
def State.logIf (s : State) (b : Bool) (e : DiagEvent) : State := if b then s.log e else s

end Sys2Proof.Machine
end

