-- ==== Sys2Proof/Machine/Cells.lean ====
section
/-! DEFINITION. The memory-mapped register cells (`20_memory.md` R90 to R95): the control registers of `10_state.md`
R38 to R45 and, when `DMA_PRESENT`, those of `60_exceptions.md` R463, with their hooks. -/

namespace Sys2Proof.Machine

/-- A register cell (R38, R463). -/
inductive Cell where
  | tmCntL (k : Fin 4)
  | tmCntH (k : Fin 4)
  | ie | iflag | waitcnt | ime | postflg | haltcnt
  | dmaSad (x : Fin 4)
  | dmaDad (x : Fin 4)
  | dmaCntL (x : Fin 4)
  | dmaCntH (x : Fin 4)
  deriving DecidableEq, Repr

/-- The address of a cell (R38, R463). -/
def Cell.base : Cell → Nat
  | .tmCntL k => 0x04000100 + 4 * k.val
  | .tmCntH k => 0x04000102 + 4 * k.val
  | .ie => 0x04000200
  | .iflag => 0x04000202
  | .waitcnt => 0x04000204
  | .ime => 0x04000208
  | .postflg => 0x04000300
  | .haltcnt => 0x04000301
  | .dmaSad x => 0x040000B0 + 12 * x.val
  | .dmaDad x => 0x040000B4 + 12 * x.val
  | .dmaCntL x => 0x040000B8 + 12 * x.val
  | .dmaCntH x => 0x040000BA + 12 * x.val

/-- The width of a cell in bytes (R38, R463). -/
def Cell.width : Cell → Nat
  | .tmCntL _ | .tmCntH _ | .ie | .iflag | .waitcnt | .dmaCntL _ | .dmaCntH _ => 2
  | .ime | .dmaSad _ | .dmaDad _ => 4
  | .postflg | .haltcnt => 1

/-- A cell covers a byte address (R93). -/
def Cell.covers (cell : Cell) (a : Nat) : Bool := decide (cell.base ≤ a) && decide (a < cell.base + cell.width)

/-- The cells that are always there, by ascending address (R38). -/
def coreCells : List Cell :=
  [.tmCntL 0, .tmCntH 0, .tmCntL 1, .tmCntH 1, .tmCntL 2, .tmCntH 2, .tmCntL 3, .tmCntH 3,
   .ie, .iflag, .waitcnt, .ime, .postflg, .haltcnt]

/-- The cells of the DMA engine, by ascending address (R463). -/
def dmaCells : List Cell :=
  [.dmaSad 0, .dmaDad 0, .dmaCntL 0, .dmaCntH 0, .dmaSad 1, .dmaDad 1, .dmaCntL 1, .dmaCntH 1,
   .dmaSad 2, .dmaDad 2, .dmaCntL 2, .dmaCntH 2, .dmaSad 3, .dmaDad 3, .dmaCntL 3, .dmaCntH 3]

/-- The cells of the I/O device, by ascending address (R78). -/
def allCells (p : Config.Params) : List Cell := if p.dmaPresent then dmaCells ++ coreCells else coreCells

/-- The cell that covers a byte address, if any (R93, R94). -/
def cellAt (p : Config.Params) (a : Nat) : Option Cell := (allCells p).find? fun cell => cell.covers a

/-! ### Field access of the control registers -/

/-- Divisor(k) of R451 for the prescale field of TMkCNT_H (R45). -/
def Timer.divisor (t : Timer) : Nat :=
  match (t.ctrl.extractLsb' 0 2).toNat with
  | 0 => 1
  | 1 => 64
  | 2 => 256
  | _ => 1024

def Timer.chain (t : Timer) : Bool := t.ctrl.getLsbD 2
def Timer.irq (t : Timer) : Bool := t.ctrl.getLsbD 6
def Timer.enabled (t : Timer) : Bool := t.ctrl.getLsbD 7

def DmaChannel.dstStep (c : DmaChannel) : Nat := (c.cntH.extractLsb' 5 2).toNat
def DmaChannel.srcStep (c : DmaChannel) : Nat := (c.cntH.extractLsb' 7 2).toNat
def DmaChannel.repeats (c : DmaChannel) : Bool := c.cntH.getLsbD 9
def DmaChannel.unit32 (c : DmaChannel) : Bool := c.cntH.getLsbD 10
def DmaChannel.timing (c : DmaChannel) : Nat := (c.cntH.extractLsb' 12 2).toNat
def DmaChannel.irq (c : DmaChannel) : Bool := c.cntH.getLsbD 14
def DmaChannel.enabled (c : DmaChannel) : Bool := c.cntH.getLsbD 15

/-- `Count(x)` (R464): a zero count is the channel's maximum, 0x4000 for channels 0 to 2, 0x10000 for channel 3. -/
def DmaChannel.count (x : Fin 4) (c : DmaChannel) : Nat :=
  if x = 3 then (if c.cntL = 0 then 0x10000 else c.cntL.toNat)
  else if c.cntL &&& 0x3FFF#16 = 0 then 0x4000
  else (c.cntL &&& 0x3FFF#16).toNat

/-! ### The hooks -/

/-- The default write hook under a write mask (R92). -/
def mergeMasked {n : Nat} (raw wmask v m : BitVec n) : BitVec n := raw &&& ~~~(m &&& wmask) ||| v &&& m &&& wmask

/-- A write of TMkCNT_H (R45), then the enable transition (R452). -/
def Timer.writeCtrl (t : Timer) (v m : Half) : Timer :=
  let t' : Timer := { t with ctrl := mergeMasked t.ctrl 0x00C7#16 v m }
  if !t.enabled && t'.enabled then { t' with counter := t.reload, sub := 0 } else t'

/-- A write of CNT_H of channel `x` (R463), then the enable transition (R464 (a)). -/
def DmaChannel.writeCntH (x : Fin 4) (c : DmaChannel) (v m : Half) : DmaChannel :=
  let c' : DmaChannel := { c with cntH := mergeMasked c.cntH 0xFFE0#16 v m }
  if !c.enabled && c'.enabled then
    { c' with
      srcLatch := c.sad
      dstLatch := c.dad
      dstStart := c.dad
      cntLatch := c'.count x
      running := c.running || c'.timing == 0 }
  else c'

/-- The read hook (R91), zero-extended. Write-only cells read 0 (R43, R463). -/
def Cell.onRead (cell : Cell) (s : State) : Word :=
  match cell with
  | .tmCntL k => (s.timers[k]).counter.setWidth 32
  | .tmCntH k => (s.timers[k]).ctrl.setWidth 32
  | .ie => s.ie.setWidth 32
  | .iflag => s.iflag.setWidth 32
  | .waitcnt => s.waitcnt.setWidth 32
  | .ime => s.ime
  | .postflg => s.postflg.setWidth 32
  | .haltcnt => 0
  | .dmaSad _ => 0
  | .dmaDad _ => 0
  | .dmaCntL _ => 0
  | .dmaCntH x => (s.dma[x]).cntH.setWidth 32

/-- The write hook `on_write(cell, v, m)` (R92); `v` and `m` are taken at the cell's width. -/
def Cell.onWrite (cell : Cell) (v m : Word) (s : State) : State :=
  let v16 : Half := v.setWidth 16
  let m16 : Half := m.setWidth 16
  match cell with
  | .tmCntL k =>
    let t := s.timers[k]
    s.withTimer k { t with reload := mergeMasked t.reload 0xFFFF#16 v16 m16 }
  | .tmCntH k => s.withTimer k ((s.timers[k]).writeCtrl v16 m16)
  | .ie => s.withIe (mergeMasked s.ie 0x3FFF#16 v16 m16)
  | .iflag => s.withIflag (s.iflag &&& ~~~(v16 &&& m16))
  | .waitcnt => s.withWaitcnt (mergeMasked s.waitcnt 0x5FFF#16 v16 m16)
  | .ime => s.withIme (mergeMasked s.ime 0x00000001#32 v m)
  | .postflg => s.withPostflg (mergeMasked s.postflg 0x01#8 (v.setWidth 8) (m.setWidth 8))
  | .haltcnt => s.withHalted true
  | .dmaSad x =>
    let c := s.dma[x]
    s.withDma x { c with sad := mergeMasked c.sad 0xFFFFFFFF#32 v m }
  | .dmaDad x =>
    let c := s.dma[x]
    s.withDma x { c with dad := mergeMasked c.dad 0xFFFFFFFF#32 v m }
  | .dmaCntL x =>
    let c := s.dma[x]
    s.withDma x { c with cntL := mergeMasked c.cntL 0xFFFF#16 v16 m16 }
  | .dmaCntH x => s.withDma x (DmaChannel.writeCntH x (s.dma[x]) v16 m16)

/-- The `n`-byte value or mask `v` of an access at `a`, moved to the lanes of a cell at `base` (R93). -/
def toLanes (base a : Nat) (v : Word) : Word := if a ≤ base then v >>> (8 * (base - a)) else v <<< (8 * (a - base))

/-- The mask of the low `n` bytes. -/
def byteMask (n : Nat) : Word := if n = 1 then 0x000000FF#32 else if n = 2 then 0x0000FFFF#32 else 0xFFFFFFFF#32

/-- A cell and an access of `n` bytes at `a` overlap (R93). -/
def Cell.overlaps (cell : Cell) (a n : Nat) : Bool := decide (cell.base < a + n) && decide (a < cell.base + cell.width)

/-- The write hooks of every cell of the list that an access overlaps, in the list's order (R93). -/
def writeCells (a n : Nat) (v : Word) : List Cell → State → State
  | [], s => s
  | cell :: rest, s =>
    writeCells a n v rest
      (if cell.overlaps a n then
        cell.onWrite (toLanes cell.base a v) (toLanes cell.base a (byteMask n) &&& byteMask cell.width) s
      else s)

end Sys2Proof.Machine
end

