-- ==== Sys2Proof/Machine/Memory.lean ====
section
/-! DEFINITION. The canonical byte lists (R46, R61): one byte read, one byte written, and the canonical form. -/

namespace Sys2Proof.Machine

/-- The byte at an offset; an unlisted byte reads 0 (R55; DEDUCED, log 4). -/
def Memory.get : Memory → Nat → Byte
  | [], _ => 0
  | (k, b) :: rest, a => if k = a then b else Memory.get rest a

/-- Writing one byte. Writing 0 removes the entry, so that equal memories are equal lists. -/
def Memory.set : Memory → Nat → Byte → Memory
  | [], a, v => if v = 0 then [] else [(a, v)]
  | (k, b) :: rest, a, v =>
    if a < k then (if v = 0 then (k, b) :: rest else (a, v) :: (k, b) :: rest)
    else if a = k then (if v = 0 then rest else (a, v) :: rest)
    else (k, b) :: Memory.set rest a v

/-- The canonical form: addresses strictly rising, no listed byte 0. -/
def Memory.wf : Memory → Bool
  | [] => true
  | (k, b) :: rest => b != 0 && rest.all (fun c => decide (k < c.1)) && Memory.wf rest

/-- Every listed address is below `n`. -/
def Memory.below (m : Memory) (n : Nat) : Bool := m.all fun c => decide (c.1 < n)

/-- Writing the bytes `v 0`, …, `v (n - 1)` at the places `place 0`, …, in ascending order (R60, R61). -/
def Memory.setBytes (m : Memory) (place : Nat → Nat) (v : Nat → Byte) : Nat → Memory
  | 0 => m
  | n + 1 => (Memory.setBytes m place v n).set (place n) (v n)

end Sys2Proof.Machine
end

