-- ==== Sys2Proof/Machine/Bus.lean ====
section
/-! DEFINITION. The address-space router (`20_memory.md`): lookup, costs, the sequential prediction, and the bus
primitives with width synthesis. A value read is zero-extended to a word. -/

namespace Sys2Proof.Machine

/-- The number of bytes of a width. -/
def Width.size : Width → Nat
  | .byte => 1
  | .half => 2
  | .word => 4

/-! ### Lookup -/

/-- The device that owns a byte address (R73); `none` for an unmapped address. -/
inductive Device where
  | bios | ewram | iwram | io | cart
  | ext (d : Config.ExtDevice)
  | none
  deriving DecidableEq, Repr

/-- The first external device that covers an address (R72, R73). -/
def extDevice (devices : List Config.ExtDevice) (a : Nat) : Device :=
  match devices.find? (fun d => decide (d.start ≤ a) && decide (a < d.stop)) with
  | some d => .ext d
  | Option.none => .none

/-- The region number, bits 27:24 (R70). -/
def region (a : Word) : Nat := (a.extractLsb' 24 4).toNat

/-- A cartridge address: regions 0x8 to 0xD below 0x10000000 (R74). -/
def isCart (a : Word) : Bool := decide (0x08000000 ≤ a.toNat) && decide (a.toNat < 0x0E000000)

/-- `Device(addr)` (R70, R73, R74). The I/O device disclaims an address with no cell (R78). -/
def device (p : Config.Params) (a : Word) : Device :=
  let n := a.toNat
  if n < Config.biosSize then .bios
  else if 0x02000000 ≤ n ∧ n < 0x03000000 then .ewram
  else if 0x03000000 ≤ n ∧ n < 0x04000000 then .iwram
  else if (cellAt p n).isSome then .io
  else if isCart a then .cart
  else if n < 0x10000000 then extDevice p.extDevices n
  else .none

/-! ### Costs -/

/-- `ws_n` of a two-bit field (R42, R104). -/
def firstWait (b : BitVec 2) : Nat :=
  match b.toNat with
  | 0 => 4
  | 1 => 3
  | 2 => 2
  | _ => 8

/-- The wait-state window of a cartridge address: 0, 1 or 2 (R104). -/
def window (a : Word) : Nat := (region a - 8) / 2

/-- `ws_n` of the window (R104). -/
def waitFirst (waitcnt : Half) (a : Word) : Nat :=
  match window a with
  | 0 => firstWait (waitcnt.extractLsb' 2 2)
  | 1 => firstWait (waitcnt.extractLsb' 5 2)
  | _ => firstWait (waitcnt.extractLsb' 8 2)

/-- `ws_s` of the window (R104). -/
def waitSecond (waitcnt : Half) (a : Word) : Nat :=
  match window a with
  | 0 => if waitcnt.getLsbD 4 then 1 else 2
  | 1 => if waitcnt.getLsbD 7 then 1 else 4
  | _ => if waitcnt.getLsbD 10 then 1 else 8

/-- The cost of a cartridge access (R103). -/
def cartCost (waitcnt : Half) (a : Word) (w : Width) (seq : Bool) : Nat :=
  let first := if seq then 1 + waitSecond waitcnt a else 1 + waitFirst waitcnt a
  match w with
  | .word => first + (1 + waitSecond waitcnt a)
  | .half => first
  | .byte => first

/-- A cartridge access at `a` is sequential (R105). -/
def isSequential (s : State) (a : Word) : Bool := s.seqNext == some a && a &&& 0x1FFFF#32 != 0

/-- The figure for a width and a kind of access. -/
def figureOf (f : Config.CostFigures) (w : Width) (isWrite : Bool) : Config.CostFigure :=
  match w, isWrite with
  | .byte, false => f.read8
  | .half, false => f.read16
  | .word, false => f.read32
  | .byte, true => f.write8
  | .half, true => f.write16
  | .word, true => f.write32

/-- The cycles a figure stands for; backup storage costs one more than the wait value of WAITCNT's lowest field
(R106). -/
def figureCycles (waitcnt : Half) : Config.CostFigure → Nat
  | .cycles n => n
  | .backup => 1 + firstWait (waitcnt.extractLsb' 0 2)

/-- `cost(addr, n, is_write)` of an external device (R71, R101, R106). -/
def extCost (waitcnt : Half) (c : Config.DeviceCost) (a : Word) (w : Width) (isWrite : Bool) : Nat :=
  figureCycles waitcnt (figureOf (c.figuresAt a.toNat) w isWrite)

/-- The cost of EWRAM (R76, R101). -/
def ewramCost : Width → Nat
  | .word => 6
  | .half => 3
  | .byte => 3

/-- `Account(addr, n, c)` (R100, R105): a cartridge access leaves the address it ends at, any other forgets it. -/
def account (a : Word) (n c : Nat) (s : State) : State :=
  ((s.withLastCost c).charge c).withSeqNext (if isCart a then some (a + BitVec.ofNat 32 n) else Option.none)

/-! ### What the devices hold -/

/-- The offset of an EWRAM address (R76). -/
def ewramOffset (a : Word) : Nat := (a &&& 0x3FFFF#32).toNat

/-- The offset of an IWRAM address (R77). -/
def iwramOffset (a : Word) : Nat := (a &&& 0x7FFF#32).toNat

/-- The offset of a cartridge address (R80). -/
def cartOffset (a : Word) : Nat := (a &&& 0x01FFFFFF#32).toNat

/-- The byte a cartridge address reads: the image's, or the sentinel at or beyond `ROM_SIZE` (R80). -/
def cartByte (s : State) (a : Word) : Byte :=
  if cartOffset a < s.params.romSize then s.rom.get (cartOffset a) else s.params.sentinel8

/-- Log the bytes of a cartridge read that lie at or beyond `ROM_SIZE` (R80), in ascending order (DEDUCED, log 23). -/
def logBeyondRom (a : Word) : Nat → State → State
  | 0, s => s
  | n + 1, s =>
    let b := a + BitVec.ofNat 32 n
    (logBeyondRom a n s).logIf (decide (s.params.romSize ≤ cartOffset b)) (.unmappedRead b)

/-- The byte an external device answers (R69): storage its own, a foreign device a free value (DESIGN
CHOICE, log 6). -/
def extByte (d : Config.ExtDevice) (s : State) (a : Word) : Byte :=
  match d.kind with
  | .storage => s.extMem.get a.toNat
  | .foreign => Config.foreignByte s.extCount a.toNat

/-- A read that an external device supports (R86, R71). -/
def extRead (d : Config.ExtDevice) (w : Width) (a : Word) (s : State) : Word × State :=
  let s1 := account a w.size (extCost s.waitcnt d.cost a w false) s
  (fromBytes (fun i => extByte d s (a + BitVec.ofNat 32 i)) w.size,
    match d.kind with
    | .storage => s1
    | .foreign => s1.withExtCount (s.extCount + 1))

/-- A write that an external device supports (R88, R71); what a foreign device does with it is its own
(DESIGN CHOICE, log 6). -/
def extWrite (d : Config.ExtDevice) (w : Width) (a v : Word) (s : State) : State :=
  let s1 := account a w.size (extCost s.waitcnt d.cost a w true) s
  match d.kind with
  | .storage =>
    s1.withExtMem (s.extMem.setBytes (fun i => (a + BitVec.ofNat 32 i).toNat) (fun i => byteOf v i) w.size)
  | .foreign => s1

/-- An external device reads at this width (R71). -/
def extReads (d : Config.ExtDevice) : Width → Bool
  | .byte => d.read8
  | .half => d.read16
  | .word => d.read32

/-- An external device writes at this width (R71). -/
def extWrites (d : Config.ExtDevice) : Width → Bool
  | .byte => d.write8
  | .half => d.write16
  | .word => d.write32

/-! ### Unmapped bytes -/

/-- `UnmappedRead8` (R87). -/
def unmappedRead8 (a : Word) (s : State) : Word × State :=
  (s.params.sentinel8.setWidth 32, account a 1 1 (s.log (.unmappedRead a)))

/-- An unmapped byte write (R89). -/
def unmappedWrite8 (a : Word) (s : State) : State := account a 1 1 (s.log (.unmappedWrite a))

/-- A byte read of whatever owns an address that no core device claims: an external device or nothing (R93). -/
def outerRead8 (a : Word) (s : State) : Word × State :=
  match extDevice s.params.extDevices a.toNat with
  | .ext d => if d.read8 then extRead d .byte a s else unmappedRead8 a s
  | _ => unmappedRead8 a s

/-- A byte write of whatever owns an address that no core device claims (R93). -/
def outerWrite8 (a v : Word) (s : State) : State :=
  match extDevice s.params.extDevices a.toNat with
  | .ext d => if d.write8 then extWrite d .byte a v s else unmappedWrite8 a s
  | _ => unmappedWrite8 a s

/-! ### The I/O device -/

/-- The bytes of an I/O read from address `a` up, low byte first: a cell's byte, or the next device's (R93), which
accounts for itself (DEDUCED, log 11). -/
def ioBytes (a : Word) : Nat → State → Word × State
  | 0, s => (0, s)
  | n + 1, s =>
    let r : Word × State :=
      match cellAt s.params a.toNat with
      | some cell => ((byteOf (cell.onRead s) (a.toNat - cell.base)).setWidth 32, s)
      | Option.none => outerRead8 a s
    let rest := ioBytes (a + 1) n r.2
    (joinParts 1 r.1 rest.1, rest.2)

/-- A read of the I/O device (R78, R93). -/
def ioRead (w : Width) (a : Word) (s : State) : Word × State := ioBytes a w.size (account a w.size 1 s)

/-- The bytes of an I/O write that no cell covers go to the next device, in ascending order (R93). -/
def ioOuterWrites (a v : Word) : Nat → State → State
  | 0, s => s
  | n + 1, s =>
    let s1 := ioOuterWrites a v n s
    let b := a + BitVec.ofNat 32 n
    if (cellAt s.params b.toNat).isSome then s1 else outerWrite8 b ((byteOf v n).setWidth 32) s1

/-- A write of the I/O device: the cells by ascending address, then the bytes without a cell (R93; DEDUCED,
log 25). -/
def ioWrite (w : Width) (a v : Word) (s : State) : State :=
  ioOuterWrites a v w.size (writeCells a.toNat w.size v (allCells s.params) (account a w.size 1 s))

/-! ### Native accesses -/

/-- The read of a device that supports the width; `none` when it does not (R86). -/
def nativeRead (w : Width) (a : Word) (s : State) : Option (Word × State) :=
  match device s.params a with
  | .bios => some (fromBytes (fun i => s.bios.get (a.toNat + i)) w.size, account a w.size 1 s)
  | .ewram =>
    some (fromBytes (fun i => s.ewram.get (ewramOffset (a + BitVec.ofNat 32 i))) w.size, account a w.size (ewramCost w) s)
  | .iwram =>
    some (fromBytes (fun i => s.iwram.get (iwramOffset (a + BitVec.ofNat 32 i))) w.size, account a w.size 1 s)
  | .io => some (ioRead w a s)
  | .cart =>
    some (fromBytes (fun i => cartByte s (a + BitVec.ofNat 32 i)) w.size,
      account a w.size (cartCost s.waitcnt a w (isSequential s a)) (logBeyondRom a w.size s))
  | .ext d => if extReads d w then some (extRead d w a s) else Option.none
  | .none => Option.none

/-- The write of a device that supports the width; `none` when it does not (R88). Boot ROM and cartridge discard
the value (R75, R80). -/
def nativeWrite (w : Width) (a v : Word) (s : State) : Option State :=
  match device s.params a with
  | .bios => some (account a w.size 1 s)
  | .ewram =>
    some ((account a w.size (ewramCost w) s).withEwram
      (s.ewram.setBytes (fun i => ewramOffset (a + BitVec.ofNat 32 i)) (fun i => byteOf v i) w.size))
  | .iwram =>
    some ((account a w.size 1 s).withIwram
      (s.iwram.setBytes (fun i => iwramOffset (a + BitVec.ofNat 32 i)) (fun i => byteOf v i) w.size))
  | .io => some (ioWrite w a v s)
  | .cart => some (account a w.size (cartCost s.waitcnt a w (isSequential s a)) s)
  | .ext d => if extWrites d w then some (extWrite d w a v s) else Option.none
  | .none => Option.none

/-! ### The bus primitives -/

/-- `MemRead(addr, 1)` (R86, R87). -/
def read8 (a : Word) (s : State) : Word × State := (nativeRead .byte a s).getD (unmappedRead8 a s)

/-- `MemRead(addr, 2)` (R86): native, or two byte reads, the low one first. -/
def read16 (a : Word) (s : State) : Word × State :=
  match nativeRead .half a s with
  | some r => r
  | Option.none =>
    let lo := read8 a s
    let hi := read8 (a + 1) lo.2
    (joinParts 1 lo.1 hi.1, hi.2)

/-- `MemRead(addr, 4)` (R86): native, or two halfword reads, the low one first. -/
def read32 (a : Word) (s : State) : Word × State :=
  match nativeRead .word a s with
  | some r => r
  | Option.none =>
    let lo := read16 a s
    let hi := read16 (a + 2) lo.2
    (joinParts 2 lo.1 hi.1, hi.2)

/-- `MemWrite(addr, 1, v)` (R88, R89). -/
def write8 (a v : Word) (s : State) : State := (nativeWrite .byte a v s).getD (unmappedWrite8 a s)

/-- `MemWrite(addr, 2, v)` (R88). -/
def write16 (a v : Word) (s : State) : State :=
  match nativeWrite .half a v s with
  | some t => t
  | Option.none => write8 (a + 1) (v >>> 8) (write8 a v s)

/-- `MemWrite(addr, 4, v)` (R88). -/
def write32 (a v : Word) (s : State) : State :=
  match nativeWrite .word a v s with
  | some t => t
  | Option.none => write16 (a + 2) (v >>> 16) (write16 a v s)

/-- `MemRead(addr, n)` by width (R11). -/
def memRead (w : Width) (a : Word) (s : State) : Word × State :=
  match w with
  | .byte => read8 a s
  | .half => read16 a s
  | .word => read32 a s

/-- `MemWrite(addr, n, v)` by width (R11). -/
def memWrite (w : Width) (a v : Word) (s : State) : State :=
  match w with
  | .byte => write8 a v s
  | .half => write16 a v s
  | .word => write32 a v s

/-! ### Looking without touching -/

/-- The cost of one byte read of whatever owns an address that no core device claims. -/
def outerPeek8 (s : State) (a : Word) : Nat :=
  match extDevice s.params.extDevices a.toNat with
  | .ext d => if d.read8 then extCost s.waitcnt d.cost a .byte false else 1
  | _ => 1

/-- The costs of the bytes of an I/O access that no cell covers. -/
def ioOuterPeek (s : State) (a : Word) : Nat → Nat
  | 0 => 0
  | n + 1 =>
    let b := a + BitVec.ofNat 32 n
    ioOuterPeek s a n + (if (cellAt s.params b.toNat).isSome then 0 else outerPeek8 s b)

/-- The cost of a supported read, with the cartridge's sequential question answered by `seq` (R108). -/
def nativePeek (s : State) (w : Width) (a : Word) (seq : Bool) : Option Nat :=
  match device s.params a with
  | .bios => some 1
  | .ewram => some (ewramCost w)
  | .iwram => some 1
  | .io => some (1 + ioOuterPeek s a w.size)
  | .cart => some (cartCost s.waitcnt a w seq)
  | .ext d => if extReads d w then some (extCost s.waitcnt d.cost a w false) else Option.none
  | .none => Option.none

/-- `PeekCost(addr, n, seq)` (R108): no access, no event; an unmapped byte costs 1, a synthesized access the sum of
its parts (R107); of an I/O or external access, what a read would charge (DEDUCED, log 24). -/
def peekCost (s : State) (w : Width) (a : Word) (seq : Bool) : Nat :=
  let peek8 := fun b => (nativePeek s .byte b seq).getD 1
  let peek16 := fun b => (nativePeek s .half b seq).getD (peek8 b + peek8 (b + 1))
  match w with
  | .byte => peek8 a
  | .half => peek16 a
  | .word => (nativePeek s .word a seq).getD (peek16 a + peek16 (a + 2))

/-- The byte at an address as a read of that byte would answer it, with no effect on the state (R61, R93): this is
what "memory" means in the statements about what an instruction leaves unchanged. -/
def peekByte (s : State) (a : Word) : Byte :=
  match device s.params a with
  | .bios => s.bios.get a.toNat
  | .ewram => s.ewram.get (ewramOffset a)
  | .iwram => s.iwram.get (iwramOffset a)
  | .io =>
    match cellAt s.params a.toNat with
    | some cell => byteOf (cell.onRead s) (a.toNat - cell.base)
    | Option.none => s.params.sentinel8
  | .cart => cartByte s a
  | .ext d => if d.read8 then extByte d s a else s.params.sentinel8
  | .none => s.params.sentinel8

end Sys2Proof.Machine
end

