-- ==== Sys2Proof/Machine/Flags.lean ====
section
/-! DEFINITION. The status word's fields (R28, R31), the condition predicates (R162), the adder (R170, R171) and
every flag computation (R172). -/

namespace Sys2Proof.Machine

/-! ### The fields of a status word -/

/-- The mode of a 5-bit code; `none` for the invalid codes (R31). -/
def Mode.ofCode (b : BitVec 5) : Option Mode :=
  match b.toNat with
  | 0x10 => some .usr
  | 0x11 => some .fiq
  | 0x12 => some .irq
  | 0x13 => some .svc
  | 0x17 => some .abt
  | 0x1B => some .und
  | 0x1F => some .sys
  | _ => none

/-- The 5-bit code of a mode (R31). -/
def Mode.code : Mode → BitVec 5
  | .usr => 0b10000
  | .fiq => 0b10001
  | .irq => 0b10010
  | .svc => 0b10011
  | .abt => 0b10111
  | .und => 0b11011
  | .sys => 0b11111

/-- `ValidMode(m)` (R31). -/
def validMode (b : BitVec 5) : Bool := (Mode.ofCode b).isSome

/-- Which saved word a mode owns, in the order fiq, irq, svc, abt, und; `none` in User and System mode (R35). -/
def Mode.spsrIndex : Mode → Option (Fin 5)
  | .usr => none
  | .fiq => some 0
  | .irq => some 1
  | .svc => some 2
  | .abt => some 3
  | .und => some 4
  | .sys => none

def State.n (s : State) : Bool := s.cpsr.getLsbD 31
def State.z (s : State) : Bool := s.cpsr.getLsbD 30
def State.c (s : State) : Bool := s.cpsr.getLsbD 29
def State.v (s : State) : Bool := s.cpsr.getLsbD 28
def State.irqOff (s : State) : Bool := s.cpsr.getLsbD 7
def State.fiqOff (s : State) : Bool := s.cpsr.getLsbD 6
def State.thumb (s : State) : Bool := s.cpsr.getLsbD 5
/-- The mode field as stored (R28). -/
def State.modeCode (s : State) : BitVec 5 := s.cpsr.extractLsb' 0 5
/-- The current mode. The stored code is one of the seven in every reachable state (R32); the other codes count as
User mode here, which no run reaches (log 10). -/
def State.mode (s : State) : Mode := (Mode.ofCode s.modeCode).getD .usr

/-- A status word with the four flags replaced (R28). -/
def putFlags (cpsr : Word) (n z c v : Bool) : Word :=
  BitVec.ofBool n ++ BitVec.ofBool z ++ BitVec.ofBool c ++ BitVec.ofBool v ++ cpsr.extractLsb' 0 28

/-- A status word with T replaced (R28). -/
def putThumb (cpsr : Word) (t : Bool) : Word := cpsr.extractLsb' 6 26 ++ BitVec.ofBool t ++ cpsr.extractLsb' 0 5

/-- A status word with the mode field replaced (R28). -/
def putMode (cpsr : Word) (m : BitVec 5) : Word := cpsr.extractLsb' 5 27 ++ m

/-- The status word of an exception handler: I = 1, F = 1 if asked, T = 0, the target mode, the rest kept (R402). -/
def handlerStatus (cpsr : Word) (setF : Bool) (m : Mode) : Word :=
  cpsr.extractLsb' 8 24 ++ 1#1 ++ BitVec.ofBool (setF || cpsr.getLsbD 6) ++ 0#1 ++ m.code

/-! ### Conditions -/

/-- `CondPassed` (R162), without the diagnostic of the reserved code. -/
def condPassed (s : State) : Cond → Bool
  | .eq => s.z
  | .ne => !s.z
  | .cs => s.c
  | .cc => !s.c
  | .mi => s.n
  | .pl => !s.n
  | .vs => s.v
  | .vc => !s.v
  | .hi => s.c && !s.z
  | .ls => !s.c || s.z
  | .ge => s.n == s.v
  | .lt => s.n != s.v
  | .gt => !s.z && (s.n == s.v)
  | .le => s.z || (s.n != s.v)
  | .al => true
  | .nv => false

/-! ### The adder -/

/-- What the adder answers: the sum, the carry and the overflow (R170). -/
structure Sum where
  value : Word
  carry : Bool
  overflow : Bool
  deriving DecidableEq, Repr

/-- `AddWithCarry(a, b, cin)` (R170). -/
def addWithCarry (a b : Word) (cin : Bool) : Sum :=
  let u := a.toNat + b.toNat + cin.toNat
  let r := BitVec.ofNat 32 u
  { value := r
    carry := decide (2 ^ 32 ≤ u)
    overflow := a.getLsbD 31 == b.getLsbD 31 && r.getLsbD 31 != a.getLsbD 31 }

/-- `AddWithCarry(a, ~b, cin)`: subtraction (R171). -/
def subWithCarry (a b : Word) (cin : Bool) : Sum := addWithCarry a (~~~b) cin

/-! ### Setting the flags -/

/-- Logical: N and Z from the result, C from the shifter, V kept (R172). -/
def logicalFlags (cpsr r : Word) (sc : Bool) : Word :=
  putFlags cpsr (r.getLsbD 31) (r == 0) sc (cpsr.getLsbD 28)

/-- Arithmetic: N and Z from the result, C and V from the adder (R172). -/
def arithmeticFlags (cpsr : Word) (a : Sum) : Word :=
  putFlags cpsr (a.value.getLsbD 31) (a.value == 0) a.carry a.overflow

/-- `SetNZ` of a 32-bit result, C and V kept (R172, R220). -/
def nzFlags (cpsr r : Word) : Word :=
  putFlags cpsr (r.getLsbD 31) (r == 0) (cpsr.getLsbD 29) (cpsr.getLsbD 28)

/-- `SetNZ` of a 64-bit result, C and V kept (R172, R222). -/
def nzFlags64 (cpsr : Word) (p : BitVec 64) : Word :=
  putFlags cpsr (p.getLsbD 63) (p == 0) (cpsr.getLsbD 29) (cpsr.getLsbD 28)

end Sys2Proof.Machine
end

