-- ==== Sys2Proof/Machine/Ops.lean ====
section
/-! DEFINITION. The named operations every instruction shares: registers through their banks (R21 to R27), writes of
the program counter (R175), of the status word (R32) and the saved words (R35 to R37), taking an exception (R402,
R403) and returning from one (R176), reset (R470), the loads and stores (R62 to R65), and the condition gate (R161). -/

namespace Sys2Proof.Machine

/-! ### Registers -/

/-- The bank that `Slot(n, m)` names (R22). -/
def bankOf (n : Reg) (m : Mode) : Bank :=
  if n.val ≤ 7 ∨ n.val = 15 then .common
  else if n.val ≤ 12 then (if m = .fiq then .hiFiq else .hiUsr)
  else
    match m with
    | .usr => .slUsr
    | .sys => .slUsr
    | .fiq => .slFiq
    | .irq => .slIrq
    | .svc => .slSvc
    | .abt => .slAbt
    | .und => .slUnd

/-- The distance from a register number to its place among the 30 physical registers, by bank. -/
def bankOffset : Bank → Nat
  | .common => 0
  | .hiUsr => 0
  | .hiFiq => 5
  | .slUsr => 5
  | .slFiq => 7
  | .slIrq => 9
  | .slSvc => 11
  | .slAbt => 13
  | .slUnd => 15

/-- The physical place of register `n`, 0 to 14, in mode `m` (R22): r0 to r7, r8 to r12 of `hi_usr`, of `hi_fiq`,
then r13 and r14 of `sl_usr`, `sl_fiq`, `sl_irq`, `sl_svc`, `sl_abt` and `sl_und`. -/
def gprSlot (n : Reg) (m : Mode) : Fin 30 := Fin.ofNat 30 (n.val + bankOffset (bankOf n m))

/-- Register `n` as stored, through the bank of mode `m`; register 15 is the stored pc (R22, R25). -/
def State.bankReg (s : State) (n : Reg) (m : Mode) : Word := if n = 15 then s.pc else s.gpr[gprSlot n m]

/-- Writing register `n` through the bank of mode `m` (R22). Register 15 is not written this way: `pc` is written
by `writePc` (R10). -/
def State.setBankReg (s : State) (n : Reg) (m : Mode) (v : Word) : State :=
  if n = 15 then s else s.withGpr (gprSlot n m) v

/-- `x[n]`, with what register 15 reads given as the distance from `A` (R10, R26). -/
def State.reg (s : State) (ahead : Nat) (n : Reg) : Word :=
  if n = 15 then s.pc + BitVec.ofNat 32 ahead else s.bankReg n s.mode

/-- `x[n] <- v` for `n` up to 14 (R10). -/
def State.setReg (s : State) (n : Reg) (v : Word) : State := s.setBankReg n s.mode v

/-- What register 15 reads in ARM state: `A + 8` (R26). -/
def armAhead : Nat := 8

/-- What register 15 reads in THUMB state: `A + 4` (R26). -/
def thumbAhead : Nat := 4

/-- What register 15 reads in a register-specified shift and as a stored register: `A + 12` (R26). -/
def farAhead : Nat := 12

def State.armReg (s : State) (n : Reg) : Word := s.reg armAhead n
def State.thumbReg (s : State) (n : Reg) : Word := s.reg thumbAhead n
def State.loReg (s : State) (n : LoReg) : Word := s.reg thumbAhead n.toReg
def State.setLoReg (s : State) (n : LoReg) (v : Word) : State := s.setReg n.toReg v

/-- The link register r14 and the stack pointer r13 (R20). -/
def linkReg : Reg := 14
def stackReg : Reg := 13
def pcReg : Reg := 15

/-! ### The program counter -/

/-- The size of an instruction in the current state (R27). -/
def State.isize (s : State) : Nat := if s.thumb then 2 else 4

/-- The width of an instruction fetch in the current state (R153). -/
def State.fetchWidth (s : State) : Width := if s.thumb then .half else .word

/-- `pc <- A + 4` (R27). -/
def advanceArm (s : State) : State := s.withPc (s.pc + 4)

/-- `pc <- A + 2` (R27). -/
def advanceThumb (s : State) : State := s.withPc (s.pc + 2)

/-- A target as `WritePC` aligns it, by the T bit (R175). -/
def alignPc (thumb : Bool) (t : Word) : Word := if thumb then alignHalf t else alignWord t

/-- The cycles of `RefillCost(t)` (R183). -/
def refillCycles (s : State) (t : Word) : Nat :=
  peekCost s s.fetchWidth t false + peekCost s s.fetchWidth (t + BitVec.ofNat 32 s.isize) true

/-- `RefillCost(t)` (R183): cycles, and what it leaves in the sequential prediction. -/
def refill (t : Word) (s : State) : State :=
  (s.charge (refillCycles s t)).withSeqNext (if isCart t then some t else none)

/-- `WritePC(t)` (R175). -/
def writePc (t : Word) (s : State) : State := refill (alignPc s.thumb t) (s.withPc (alignPc s.thumb t))

/-- The end of an ARM instruction that writes `v` to register `rd`: register 15 takes it through `WritePC`, any
other is written and `pc` advances (R27, R175). -/
def writeArm (rd : Reg) (v : Word) (s : State) : State :=
  if rd = 15 then writePc v s else advanceArm (s.setReg rd v)

/-- The same for a THUMB instruction. -/
def writeThumb (rd : Reg) (v : Word) (s : State) : State :=
  if rd = 15 then writePc v s else advanceThumb (s.setReg rd v)

/-! ### Status words -/

/-- The value `WriteCPSR` merges (R32): in User mode an MSR reaches the flag byte only, and an MSR keeps T. -/
def mergedCpsr (new mask : Word) (fromMsr : Bool) (s : State) : Word :=
  let m := if s.mode = .usr ∧ fromMsr then mask &&& 0xFF000000#32 else mask
  let v := s.cpsr &&& ~~~m ||| new &&& m
  if fromMsr then putThumb v s.thumb else v

/-- `WriteCPSR(new, mask, from_msr)` (R32): a mode code that is none of the seven is logged and not stored. -/
def writeCpsr (new mask : Word) (fromMsr : Bool) (s : State) : State :=
  if validMode ((mergedCpsr new mask fromMsr s).extractLsb' 0 5) then s.withCpsr (mergedCpsr new mask fromMsr s)
  else
    (s.log (.invalidModeWrite ((mergedCpsr new mask fromMsr s).extractLsb' 0 5))).withCpsr
      (putMode (mergedCpsr new mask fromMsr s) s.modeCode)

/-- The word mask of an `fsxc` field mask (R126, R208): bit 3 is `f`, bit 0 is `c`. -/
def fieldMask (fsxc : BitVec 4) : Word :=
  (if fsxc.getLsbD 3 then 0xFF#8 else 0#8) ++ (if fsxc.getLsbD 2 then 0xFF#8 else 0#8) ++
    (if fsxc.getLsbD 1 then 0xFF#8 else 0#8) ++ (if fsxc.getLsbD 0 then 0xFF#8 else 0#8)

/-- The value an MRS reads, and the state after the read (R207, R36, R37). -/
def readStatus (p : StatusWord) (s : State) : Word × State :=
  match p with
  | .cpsr => (s.cpsr, s)
  | .spsr =>
    match s.mode.spsrIndex with
    | none => (s.cpsr, s.log (.spsrAbsent .read))
    | some m => (s.spsr[m], s.logIf (!s.spsrValid[m]) (.staleSpsr s.mode))

/-- `MsrWrite(P, fsxc, operand)` (R208). A saved word is stored verbatim (R35). With an empty field mask the word keeps
its value, and the procedure's other effects stand: the saved word's tag is set, an absent word is logged (DEDUCED,
log 31). -/
def msrWrite (p : StatusWord) (fsxc : BitVec 4) (operand : Word) (s : State) : State :=
  match p with
  | .cpsr => writeCpsr operand (fieldMask fsxc) true s
  | .spsr =>
    match s.mode.spsrIndex with
    | none => s.log (.spsrAbsent .write)
    | some m =>
      (s.withSpsr m (s.spsr[m] &&& ~~~(fieldMask fsxc) ||| operand &&& fieldMask fsxc)).withSpsrValid m true

/-- `RestoreCPSR()`, the return from an exception (R176): the current mode's saved word becomes the status word and
its tag is cleared. In User and System mode the status word stays (R37). -/
def restoreCpsr (s : State) : State :=
  match s.mode.spsrIndex with
  | none => s.log (.spsrAbsent .restore)
  | some m =>
    writeCpsr s.spsr[m] 0xFFFFFFFF#32 false
      ((s.logIf (!s.spsrValid[m]) (.staleSpsr s.mode)).withSpsrValid m false)

/-! ### Exceptions -/

/-- The vector of an exception kind (R403). -/
def vector : ExceptionKind → Word
  | .reset => 0x00000000
  | .undefined => 0x00000004
  | .swi => 0x00000008
  | .prefetchAbort => 0x0000000C
  | .dataAbort => 0x00000010
  | .irq => 0x00000018
  | .fiq => 0x0000001C

/-- The target mode of an exception kind (R403). -/
def targetMode : ExceptionKind → Mode
  | .reset => .svc
  | .undefined => .und
  | .swi => .svc
  | .prefetchAbort => .abt
  | .dataAbort => .abt
  | .irq => .irq
  | .fiq => .fiq

/-- The saved word of the target mode (R402). -/
def targetSpsr : ExceptionKind → Fin 5
  | .reset => 2
  | .undefined => 4
  | .swi => 2
  | .prefetchAbort => 3
  | .dataAbort => 3
  | .irq => 1
  | .fiq => 0

/-- Which kinds set F (R403). -/
def setsF : ExceptionKind → Bool
  | .reset => true
  | .undefined => false
  | .swi => false
  | .prefetchAbort => false
  | .dataAbort => false
  | .irq => false
  | .fiq => true

/-- How far past `A` (for IRQ and FIQ past the next instruction's address) the return address lies, from ARM and
from THUMB state (R403). Reset saves none (R406). -/
def returnOffset (thumb : Bool) : ExceptionKind → Nat
  | .reset => 0
  | .undefined => if thumb then 2 else 4
  | .swi => if thumb then 2 else 4
  | .prefetchAbort => 4
  | .dataAbort => 8
  | .irq => 4
  | .fiq => 4

/-- `reset()` (R55, R470): everything but the parameters, the images and the diagnostic log takes its reset value;
the counters of the free values go on (DESIGN CHOICE, log 9). -/
def resetMachine (s : State) : State :=
  ((State.initial s.params s.bios s.rom s.diag).withDrawCount s.drawCount).withExtCount s.extCount

/-- `Enter(kind)` (R402), taking an exception: the return address goes to the target mode's r14, the status word to
its saved word, then the handler's status and the vector are taken. Raising Reset is `reset()` (R406). -/
def enterException (kind : ExceptionKind) (s : State) : State :=
  match kind with
  | .reset => resetMachine s
  | kind =>
    let ret := s.pc + BitVec.ofNat 32 (returnOffset s.thumb kind)
    let s1 := s.setBankReg linkReg (targetMode kind) ret
    let s2 := (s1.withSpsr (targetSpsr kind) s.cpsr).withSpsrValid (targetSpsr kind) true
    writePc (vector kind) (s2.withCpsr (handlerStatus s.cpsr (setsF kind) (targetMode kind)))

/-- `Illegal(tag)` (R267), by `UND_POLICY`: the fatal record with nothing else changed, or the Undefined exception. -/
def illegal (tag : Tag) (s : State) : State :=
  match s.params.undPolicy with
  | .fatal => s.withFatal (some { addr := s.pc, opcode := s.ir, tag := tag })
  | .vector => enterException .undefined s

/-! ### Interrupts -/

/-- The enabled pending sources, `IE & IF & 0x3FFF` (R421). -/
def State.pending (s : State) : Half := s.ie &&& s.iflag &&& 0x3FFF#16

/-- `IrqWinner`: the lowest-numbered pending and enabled source (R413). -/
def irqWinner (s : State) : Option (Fin 14) := (List.finRange 14).find? fun i => s.pending.getLsbD i.val

/-- `raise_interrupt(source)` (R424). -/
def raiseInterrupt (source : Nat) (s : State) : State :=
  if source < 14 then s.withIflag (s.iflag ||| 1#16 <<< source) else s

/-! ### Loads and stores -/

/-- A word load: the aligned word, rotated by the misalignment (R62). -/
def loadWord (a : Word) (s : State) : Word × State :=
  let r := memRead .word (alignWord a) s
  (ror32 r.1 (8 * byteLane a), r.2)

/-- An unsigned halfword load (R63). -/
def loadHalf (a : Word) (s : State) : Word × State :=
  let r := memRead .half (alignHalf a) s
  (ror32 r.1 (8 * (a.extractLsb' 0 1).toNat), r.2)

/-- A signed halfword load: from an odd address the sign-extended byte (R64). -/
def loadSignedHalf (a : Word) (s : State) : Word × State :=
  if a.getLsbD 0 then
    let r := memRead .byte a s
    (sext 8 r.1, r.2)
  else
    let r := memRead .half a s
    (sext 16 r.1, r.2)

/-- An unsigned byte load (R232). -/
def loadByte (a : Word) (s : State) : Word × State := memRead .byte a s

/-- A signed byte load (R242). -/
def loadSignedByte (a : Word) (s : State) : Word × State :=
  let r := memRead .byte a s
  (sext 8 r.1, r.2)

/-- A word store (R65). -/
def storeWord (a v : Word) (s : State) : State := memWrite .word (alignWord a) v s

/-- A halfword store (R65). -/
def storeHalf (a v : Word) (s : State) : State := memWrite .half (alignHalf a) v s

/-- A byte store (R65). -/
def storeByte (a v : Word) (s : State) : State := memWrite .byte a v s

/-! ### The condition gate -/

/-- An ARM instruction whose condition fails: `pc` advances, and the reserved code is logged (R161, R162). -/
def skip (c : Cond) (s : State) : State :=
  advanceArm (s.logIf (c == .nv) (.reservedCondition s.pc s.ir))

/-- An ARM instruction: its own effect when the condition passes, else the skip (R161). The gate stands here and not in
`step` (DESIGN CHOICE, log 19). -/
def gated (c : Cond) (effect : State → State) (s : State) : Host.Outcome State Fault Refusal :=
  .next (if condPassed s c then effect s else skip c s)

end Sys2Proof.Machine
end

