-- ==== Sys2Proof/Machine/Operands.lean ====
section
/-! DEFINITION. Every operand form: the barrel shifter (R163 to R165), the second operand (R166 to R168), the
addresses of single and halfword transfers (R238, R239) and the plan of a block transfer (R252). -/

namespace Sys2Proof.Machine

/-! ### The barrel shifter -/

/-- A shifter's answer: the value and the carry out. -/
structure Shifted where
  value : Word
  carry : Bool
  deriving DecidableEq, Repr

/-- `Shift(LSL, v, n, cin)` (R163). -/
def shiftLsl (v : Word) (n : Nat) (cin : Bool) : Shifted :=
  if n = 0 then ⟨v, cin⟩
  else if n ≤ 31 then ⟨v <<< n, v.getLsbD (32 - n)⟩
  else if n = 32 then ⟨0, v.getLsbD 0⟩
  else ⟨0, false⟩

/-- `Shift(LSR, v, n, cin)` (R163). -/
def shiftLsr (v : Word) (n : Nat) (cin : Bool) : Shifted :=
  if n = 0 then ⟨v, cin⟩
  else if n ≤ 31 then ⟨v >>> n, v.getLsbD (n - 1)⟩
  else if n = 32 then ⟨0, v.getLsbD 31⟩
  else ⟨0, false⟩

/-- `Shift(ASR, v, n, cin)` (R163). -/
def shiftAsr (v : Word) (n : Nat) (cin : Bool) : Shifted :=
  if n = 0 then ⟨v, cin⟩
  else if n ≤ 31 then ⟨v.sshiftRight n, v.getLsbD (n - 1)⟩
  else ⟨if v.getLsbD 31 then 0xFFFFFFFF#32 else 0, v.getLsbD 31⟩

/-- `Shift(ROR, v, n, cin)` (R163). -/
def shiftRor (v : Word) (n : Nat) (cin : Bool) : Shifted :=
  if n = 0 then ⟨v, cin⟩
  else
    let m := n % 32
    if m = 0 then ⟨v, v.getLsbD 31⟩ else ⟨ror32 v m, v.getLsbD (m - 1)⟩

/-- `Shift(kind, v, n, cin)` (R163). -/
def shift (kind : ShiftKind) (v : Word) (n : Nat) (cin : Bool) : Shifted :=
  match kind with
  | .lsl => shiftLsl v n cin
  | .lsr => shiftLsr v n cin
  | .asr => shiftAsr v n cin
  | .ror => shiftRor v n cin

/-- `RRX(v, cin)` (R165). -/
def rrx (v : Word) (cin : Bool) : Shifted := ⟨BitVec.ofBool cin ++ v.extractLsb' 1 31, v.getLsbD 0⟩

/-- A shift by an immediate field, decoded by `DecodeImmShift` (R164). -/
def shiftImm (kind : ShiftKind) (v : Word) (imm5 : BitVec 5) (cin : Bool) : Shifted :=
  match kind with
  | .lsl => shift .lsl v imm5.toNat cin
  | .lsr => shift .lsr v (if imm5 = 0 then 32 else imm5.toNat) cin
  | .asr => shift .asr v (if imm5 = 0 then 32 else imm5.toNat) cin
  | .ror => if imm5 = 0 then rrx v cin else shift .ror v imm5.toNat cin

/-! ### The second operand -/

/-- The value of a rotated immediate (R141). -/
def rotatedImm (rot : BitVec 4) (imm8 : BitVec 8) : Word := ror32 (imm8.setWidth 32) (2 * rot.toNat)

/-- What register 15 reads beside a second operand: `A + 12` in the register-shift form (R167, R168). -/
def operand2Ahead : Operand2 → Nat
  | .imm .. => armAhead
  | .regImm .. => armAhead
  | .regReg .. => farAhead

/-- The internal cycles of a second operand (R168, R182). -/
def operand2Cycles : Operand2 → Nat
  | .imm .. => 0
  | .regImm .. => 0
  | .regReg .. => 1

/-- The second operand and the shifter's carry (R166 to R168). -/
def operand2 (s : State) : Operand2 → Shifted
  | .imm rot imm8 => ⟨rotatedImm rot imm8, if rot = 0 then s.c else (rotatedImm rot imm8).getLsbD 31⟩
  | .regImm rm kind imm5 => shiftImm kind (s.armReg rm) imm5 s.c
  | .regReg rm kind rs => shift kind (s.reg farAhead rm) (byteOf (s.reg farAhead rs) 0).toNat s.c

/-! ### Transfer addresses -/

/-- The offset of a single data transfer (R238). -/
def wordOffset (s : State) : WordOffset → Word
  | .imm off12 => off12.setWidth 32
  | .reg rm kind imm5 => (shiftImm kind (s.armReg rm) imm5 s.c).value

/-- The offset register is r15 (R238). -/
def wordOffsetUsesPc : WordOffset → Bool
  | .imm _ => false
  | .reg rm _ _ => rm == 15

/-- The offset of a halfword transfer (R239). -/
def halfOffset (s : State) : HalfOffset → Word
  | .imm off8 => off8.setWidth 32
  | .reg rm => s.armReg rm

/-- The offset register is r15 (R239). -/
def halfOffsetUsesPc : HalfOffset → Bool
  | .imm _ => false
  | .reg rm => rm == 15

/-- `offaddr`: the base plus or minus the offset (R238). -/
def offsetAddr (base off : Word) (up : Bool) : Word := if up then base + off else base - off

/-- `addr`: pre-indexed the offset address, post-indexed the base (R238). -/
def transferAddr (ix : Index) (base offaddr : Word) : Word :=
  match ix with
  | .pre _ => offaddr
  | .post => base

/-- `wb`: post-indexed, or pre-indexed with W = 1 (R238). -/
def indexWritesBack : Index → Bool
  | .pre w => w
  | .post => true

/-- `WriteBack(Rn, offaddr, wb)` (R238). -/
def writeBack (rn : Reg) (offaddr : Word) (wb : Bool) (s : State) : State :=
  if wb then (if rn = 15 then s.log (.unpredictable .writebackR15) else s.setReg rn offaddr) else s

/-- What an addressing mode answers (R238): the address accessed, the value written back, whether it is, and whether
the offset register is r15. -/
structure Addressed where
  addr : Word
  offaddr : Word
  wb : Bool
  pcOffset : Bool
  deriving DecidableEq, Repr

/-- `AddrSDT` (R238). -/
def addrSingle (s : State) (ix : Index) (up : Bool) (off : WordOffset) (rn : Reg) : Addressed :=
  let base := s.armReg rn
  let offaddr := offsetAddr base (wordOffset s off) up
  { addr := transferAddr ix base offaddr, offaddr := offaddr, wb := indexWritesBack ix, pcOffset := wordOffsetUsesPc off }

/-- `AddrHDT` (R239). -/
def addrHalf (s : State) (ix : Index) (up : Bool) (off : HalfOffset) (rn : Reg) : Addressed :=
  let base := s.armReg rn
  let offaddr := offsetAddr base (halfOffset s off) up
  { addr := transferAddr ix base offaddr, offaddr := offaddr, wb := indexWritesBack ix, pcOffset := halfOffsetUsesPc off }

/-! ### Block transfers -/

/-- `BlockPlan` (R252): the registers in ascending order, the first address, the base afterwards. -/
structure BlockPlan where
  regs : List Reg
  start : Word
  final : Word
  deriving DecidableEq, Repr

/-- The registers of a list, ascending; an empty list moves r15 alone (R252, R254). -/
def blockRegs (list : BitVec 16) : List Reg :=
  if list = 0 then [15] else (List.finRange 16).filter fun r => list.getLsbD r.val

/-- The bytes a block transfer moves the base by: 0x40 for an empty list (R252, R254). -/
def blockSpan (list : BitVec 16) : Word :=
  if list = 0 then 0x40 else BitVec.ofNat 32 (4 * (blockRegs list).length)

/-- The plan of a block transfer from its base (R252, R255). -/
def blockPlan (mode : BlockMode) (list : BitVec 16) (base : Word) : BlockPlan :=
  let span := blockSpan list
  match mode with
  | .ia => { regs := blockRegs list, start := base, final := base + span }
  | .ib => { regs := blockRegs list, start := base + 4, final := base + span }
  | .da => { regs := blockRegs list, start := base - span + 4, final := base - span }
  | .db => { regs := blockRegs list, start := base - span, final := base - span }

end Sys2Proof.Machine
end

