-- ==== Sys2Proof/Machine/ArmBlock.lean ====
section
/-! DEFINITION. ARM block transfers (`43_arm_load_store.md` R250 to R255). -/

namespace Sys2Proof.Machine

/-- The loads of a block transfer (R250): register after register at rising word addresses, r15 set aside. `bank` is
the mode whose registers are written. Answers the state and the value for `pc`. -/
def loadBlock (bank : Mode) : List Reg → Word → State → Option Word → State × Option Word
  | [], _, s, newPc => (s, newPc)
  | r :: rest, a, s, newPc =>
    let v := memRead .word (alignWord a) s
    if r = 15 then loadBlock bank rest (a + 4) v.2 (some v.1)
    else loadBlock bank rest (a + 4) (v.2.setBankReg r bank v.1) newPc

/-- The stores of a block transfer (R251): `value` gives what is stored for the register at each place of the list,
taken before any store. -/
def storeBlock (value : Nat → Reg → Word) : Nat → List Reg → Word → State → State
  | _, [], _, s => s
  | k, r :: rest, a, s => storeBlock value (k + 1) rest (a + 4) (memWrite .word (alignWord a) (value k r) s)

/-- The events of a block transfer: r15 as base (R252); the User-bank form with write-back
(R253), in every mode (DEDUCED, logs 14 and 15). -/
def blockEvents (userBank w : Bool) (rn : Reg) (s : State) : State :=
  (s.logIf (rn == 15) (.unpredictable .blockBaseR15)).logIf (userBank && w) (.unpredictable .userBankWriteback)

/-- The base write-back of a block transfer: none to r15 (R250, R251). -/
def blockWriteBack (w : Bool) (rn : Reg) (final : Word) (s : State) : State :=
  if w && rn != 15 then s.setReg rn final else s

/-- LDM (R250): the write-back first, so that a loaded base wins; registers r0 to r14 in the mode before any status
restore; then, with r15 in the list, the status restore of the S bit and the new `pc`. -/
def ldmEffect (mode : BlockMode) (sbit w : Bool) (rn : Reg) (list : BitVec 16) (s : State) : State :=
  let plan := blockPlan mode list (s.armReg rn)
  let user := sbit && !plan.regs.contains 15
  let s1 := blockWriteBack w rn plan.final (blockEvents user w rn s)
  let r := loadBlock (if user then .usr else s.mode) plan.regs plan.start s1 none
  let s2 := r.1.charge 1
  match r.2 with
  | some newPc => writePc newPc (if sbit then restoreCpsr s2 else s2)
  | none => advanceArm s2

/-- What STM stores for register `r` at place `k` (R251). -/
def stmValue (s : State) (sbit w : Bool) (rn : Reg) (base final : Word) (k : Nat) (r : Reg) : Word :=
  if r = 15 then s.pc + BitVec.ofNat 32 farAhead
  else if r = rn then (if k = 0 then base else if w then final else base)
  else s.bankReg r (if sbit then .usr else s.mode)

/-- STM (R251). -/
def stmEffect (mode : BlockMode) (sbit w : Bool) (rn : Reg) (list : BitVec 16) (s : State) : State :=
  let base := s.armReg rn
  let plan := blockPlan mode list base
  let s1 := storeBlock (stmValue s sbit w rn base plan.final) 0 plan.regs plan.start (blockEvents sbit w rn s)
  advanceArm (blockWriteBack w rn plan.final s1)

/-- LDM (R250, R252 to R254). -/
def execArmLdm (c : Cond) (mode : BlockMode) (sbit w : Bool) (rn : Reg) (list : BitVec 16) (s : State) :
    Host.Outcome State Fault Refusal :=
  gated c (ldmEffect mode sbit w rn list) s

/-- STM (R251 to R254). -/
def execArmStm (c : Cond) (mode : BlockMode) (sbit w : Bool) (rn : Reg) (list : BitVec 16) (s : State) :
    Host.Outcome State Fault Refusal :=
  gated c (stmEffect mode sbit w rn list) s

end Sys2Proof.Machine
end

