-- ==== Sys2Proof/Machine/ArmBranchSystem.lean ====
section
/-! DEFINITION. ARM branches, the software interrupt, and the illegal instructions (`44_arm_branch_system.md`). -/

namespace Sys2Proof.Machine

/-- The target of B and BL: `A + 8` plus the signed word offset (R260). -/
def branchTarget (s : State) (off24 : BitVec 24) : Word :=
  s.pc + BitVec.ofNat 32 armAhead + off24.signExtend 32 <<< 2

/-- The exchange of BX (R262, R323): T takes the target's bit 0, then `pc` is written. -/
def branchExchange (t : Word) (s : State) : State := writePc t (s.withCpsr (putThumb s.cpsr (t.getLsbD 0)))

/-- B (R260). -/
def execArmB (c : Cond) (off24 : BitVec 24) (s : State) : Host.Outcome State Fault Refusal :=
  gated c (fun s => writePc (branchTarget s off24) s) s

/-- BL (R261): r14 takes `A + 4`. -/
def execArmBl (c : Cond) (off24 : BitVec 24) (s : State) : Host.Outcome State Fault Refusal :=
  gated c (fun s => writePc (branchTarget s off24) (s.setReg linkReg (s.pc + 4))) s

/-- BX (R262). -/
def execArmBx (c : Cond) (rn : Reg) (s : State) : Host.Outcome State Fault Refusal :=
  gated c (fun s => branchExchange (s.armReg rn) s) s

/-- SWI (R264). The comment field is ignored. -/
def execArmSwi (c : Cond) (_comment : BitVec 24) (s : State) : Host.Outcome State Fault Refusal :=
  gated c (enterException .swi) s

/-- BKPT (R265). -/
def execArmBkpt (c : Cond) (_imm12 : BitVec 12) (_imm4 : BitVec 4) (s : State) : Host.Outcome State Fault Refusal :=
  gated c (illegal .aBKPT) s

/-- The undefined instruction, entry A10 (R263). -/
def execArmUnd (c : Cond) (_hi : BitVec 20) (_lo : BitVec 4) (s : State) : Host.Outcome State Fault Refusal :=
  gated c (illegal .aUND) s

/-- The undefined instruction, entry A6 (R263). -/
def execArmUndMulSwap (c : Cond) (_hi : BitVec 17) (_lo : BitVec 4) (s : State) : Host.Outcome State Fault Refusal :=
  gated c (illegal .aUND) s

/-- The undefined instruction, entry A7 (R263). -/
def execArmUndLdrdStrd (c : Cond) (_puiw : BitVec 4) (_mid : BitVec 12) (_h : Bool) (_lo : BitVec 4) (s : State) :
    Host.Outcome State Fault Refusal :=
  gated c (illegal .aUND) s

/-- CDP (R268). No coprocessor is attached: no field is read (R266). -/
def execArmCdp (c : Cond) (_opc1 _crn _crd _cp : BitVec 4) (_opc2 : BitVec 3) (_crm : BitVec 4) (s : State) :
    Host.Outcome State Fault Refusal :=
  gated c (illegal .aCDO) s

/-- LDC (R269). -/
def execArmLdc (c : Cond) (_punw _rn _crd _cp : BitVec 4) (_off8 : BitVec 8) (s : State) :
    Host.Outcome State Fault Refusal :=
  gated c (illegal .aCDT) s

/-- STC (R270). -/
def execArmStc (c : Cond) (_punw _rn _crd _cp : BitVec 4) (_off8 : BitVec 8) (s : State) :
    Host.Outcome State Fault Refusal :=
  gated c (illegal .aCDT) s

/-- MRC (R271). -/
def execArmMrc (c : Cond) (_opc1 : BitVec 3) (_crn _rd _cp : BitVec 4) (_opc2 : BitVec 3) (_crm : BitVec 4) (s : State) :
    Host.Outcome State Fault Refusal :=
  gated c (illegal .aCRT) s

/-- MCR (R272). -/
def execArmMcr (c : Cond) (_opc1 : BitVec 3) (_crn _rd _cp : BitVec 4) (_opc2 : BitVec 3) (_crm : BitVec 4) (s : State) :
    Host.Outcome State Fault Refusal :=
  gated c (illegal .aCRT) s

end Sys2Proof.Machine
end

