-- ==== Sys2Proof/Machine/ArmDataProcessing.lean ====
section
/-! DEFINITION. ARM data processing (`41_arm_data_processing.md` R190 to R206): the shared procedure and one meaning
for each of the sixteen operations. -/

namespace Sys2Proof.Machine

/-- The first operand `a` of R190: register 15 reads `A + 8`, in the register-shift form `A + 12`. -/
def firstOperand (s : State) (rn : Reg) (op2 : Operand2) : Word := s.reg (operand2Ahead op2) rn

/-- The end of `ExecDP` for an operation with a destination (R190): `r` is the result, `flags` the status word with
the operation's flags. With S = 1 and Rd = 15 the status word is restored and the flags are not written. -/
def finishDp (sf : Bool) (rd : Reg) (r flags : Word) (s : State) : State :=
  if rd = 15 then writePc r (if sf then restoreCpsr s else s)
  else advanceArm (if sf then (s.setReg rd r).withCpsr flags else s.setReg rd r)

/-- A logical operation of R190: `f` of the first and the second operand. -/
def logicalDp (sf : Bool) (rd rn : Reg) (op2 : Operand2) (f : Word → Word → Word) (s : State) : State :=
  let o := operand2 s op2
  let r := f (firstOperand s rn op2) o.value
  finishDp sf rd r (logicalFlags s.cpsr r o.carry) (s.charge (operand2Cycles op2))

/-- An arithmetic operation of R190: `f` of the first operand, the second and the carry flag. -/
def arithmeticDp (sf : Bool) (rd rn : Reg) (op2 : Operand2) (f : Word → Word → Bool → Sum) (s : State) : State :=
  let r := f (firstOperand s rn op2) (operand2 s op2).value s.c
  finishDp sf rd r.value (arithmeticFlags s.cpsr r) (s.charge (operand2Cycles op2))

/-- A move (R204, R206): the first operand is not read. -/
def moveDp (sf : Bool) (rd : Reg) (op2 : Operand2) (f : Word → Word) (s : State) : State :=
  let o := operand2 s op2
  let r := f o.value
  finishDp sf rd r (logicalFlags s.cpsr r o.carry) (s.charge (operand2Cycles op2))

/-- A logical test (R199, R200): the flags and nothing else. -/
def logicalTest (rn : Reg) (op2 : Operand2) (f : Word → Word → Word) (s : State) : State :=
  let o := operand2 s op2
  advanceArm ((s.charge (operand2Cycles op2)).withCpsr
    (logicalFlags s.cpsr (f (firstOperand s rn op2) o.value) o.carry))

/-- A comparison (R201, R202): the flags and nothing else. -/
def arithmeticTest (rn : Reg) (op2 : Operand2) (f : Word → Word → Sum) (s : State) : State :=
  advanceArm ((s.charge (operand2Cycles op2)).withCpsr
    (arithmeticFlags s.cpsr (f (firstOperand s rn op2) (operand2 s op2).value)))

/-- AND (R191). -/
def execArmAnd (c : Cond) (sf : Bool) (rd rn : Reg) (op2 : Operand2) (s : State) : Host.Outcome State Fault Refusal :=
  gated c (logicalDp sf rd rn op2 fun a b => a &&& b) s

/-- EOR (R192). -/
def execArmEor (c : Cond) (sf : Bool) (rd rn : Reg) (op2 : Operand2) (s : State) : Host.Outcome State Fault Refusal :=
  gated c (logicalDp sf rd rn op2 fun a b => a ^^^ b) s

/-- SUB (R193). -/
def execArmSub (c : Cond) (sf : Bool) (rd rn : Reg) (op2 : Operand2) (s : State) : Host.Outcome State Fault Refusal :=
  gated c (arithmeticDp sf rd rn op2 fun a b _ => subWithCarry a b true) s

/-- RSB (R194). -/
def execArmRsb (c : Cond) (sf : Bool) (rd rn : Reg) (op2 : Operand2) (s : State) : Host.Outcome State Fault Refusal :=
  gated c (arithmeticDp sf rd rn op2 fun a b _ => subWithCarry b a true) s

/-- ADD (R195). -/
def execArmAdd (c : Cond) (sf : Bool) (rd rn : Reg) (op2 : Operand2) (s : State) : Host.Outcome State Fault Refusal :=
  gated c (arithmeticDp sf rd rn op2 fun a b _ => addWithCarry a b false) s

/-- ADC (R196): the carry flag as it was at the start of the step. -/
def execArmAdc (c : Cond) (sf : Bool) (rd rn : Reg) (op2 : Operand2) (s : State) : Host.Outcome State Fault Refusal :=
  gated c (arithmeticDp sf rd rn op2 fun a b cin => addWithCarry a b cin) s

/-- SBC (R197). -/
def execArmSbc (c : Cond) (sf : Bool) (rd rn : Reg) (op2 : Operand2) (s : State) : Host.Outcome State Fault Refusal :=
  gated c (arithmeticDp sf rd rn op2 fun a b cin => subWithCarry a b cin) s

/-- RSC (R198). -/
def execArmRsc (c : Cond) (sf : Bool) (rd rn : Reg) (op2 : Operand2) (s : State) : Host.Outcome State Fault Refusal :=
  gated c (arithmeticDp sf rd rn op2 fun a b cin => subWithCarry b a cin) s

/-- TST (R199). -/
def execArmTst (c : Cond) (rn : Reg) (op2 : Operand2) (s : State) : Host.Outcome State Fault Refusal :=
  gated c (logicalTest rn op2 fun a b => a &&& b) s

/-- TEQ (R200). -/
def execArmTeq (c : Cond) (rn : Reg) (op2 : Operand2) (s : State) : Host.Outcome State Fault Refusal :=
  gated c (logicalTest rn op2 fun a b => a ^^^ b) s

/-- CMP (R201). -/
def execArmCmp (c : Cond) (rn : Reg) (op2 : Operand2) (s : State) : Host.Outcome State Fault Refusal :=
  gated c (arithmeticTest rn op2 fun a b => subWithCarry a b true) s

/-- CMN (R202). -/
def execArmCmn (c : Cond) (rn : Reg) (op2 : Operand2) (s : State) : Host.Outcome State Fault Refusal :=
  gated c (arithmeticTest rn op2 fun a b => addWithCarry a b false) s

/-- ORR (R203). -/
def execArmOrr (c : Cond) (sf : Bool) (rd rn : Reg) (op2 : Operand2) (s : State) : Host.Outcome State Fault Refusal :=
  gated c (logicalDp sf rd rn op2 fun a b => a ||| b) s

/-- MOV (R204). -/
def execArmMov (c : Cond) (sf : Bool) (rd : Reg) (op2 : Operand2) (s : State) : Host.Outcome State Fault Refusal :=
  gated c (moveDp sf rd op2 fun b => b) s

/-- BIC (R205). -/
def execArmBic (c : Cond) (sf : Bool) (rd rn : Reg) (op2 : Operand2) (s : State) : Host.Outcome State Fault Refusal :=
  gated c (logicalDp sf rd rn op2 fun a b => a &&& ~~~b) s

/-- MVN (R206). -/
def execArmMvn (c : Cond) (sf : Bool) (rd : Reg) (op2 : Operand2) (s : State) : Host.Outcome State Fault Refusal :=
  gated c (moveDp sf rd op2 fun b => ~~~b) s

end Sys2Proof.Machine
end

