-- ==== Sys2Proof/Machine/ArmLoadStore.lean ====
section
/-! DEFINITION. ARM single and halfword transfers and swap (`43_arm_load_store.md` R230 to R243, R256, R257). -/

namespace Sys2Proof.Machine

/-- A load (R230, R232, R240 to R243): the access, the write-back, one internal cycle, then the destination, so that
a loaded base wins. `toPc` is the event of a load into r15 that is unpredictable. -/
def loadEffect (load : Word → State → Word × State) (ad : Addressed) (rn rd : Reg) (toPc : Option Reason) (s : State) :
    State :=
  let r := load ad.addr (s.logIf ad.pcOffset (.unpredictable .offsetR15))
  let s1 := (writeBack rn ad.offaddr ad.wb r.2).charge 1
  let s2 :=
    match toPc with
    | some reason => s1.logIf (rd == 15) (.unpredictable reason)
    | none => s1
  writeArm rd r.1 s2

/-- A store (R231, R233, R241): r15 stores `A + 12`, the access, then the write-back. -/
def storeEffect (store : Word → Word → State → State) (ad : Addressed) (rn rd : Reg) (s : State) : State :=
  advanceArm (writeBack rn ad.offaddr ad.wb
    (store ad.addr (s.reg farAhead rd) (s.logIf ad.pcOffset (.unpredictable .offsetR15))))

/-- LDR (R230). -/
def execArmLdr (c : Cond) (ix : Index) (up : Bool) (off : WordOffset) (rn rd : Reg) (s : State) :
    Host.Outcome State Fault Refusal :=
  gated c (fun s => loadEffect loadWord (addrSingle s ix up off rn) rn rd none s) s

/-- STR (R231). -/
def execArmStr (c : Cond) (ix : Index) (up : Bool) (off : WordOffset) (rn rd : Reg) (s : State) :
    Host.Outcome State Fault Refusal :=
  gated c (fun s => storeEffect storeWord (addrSingle s ix up off rn) rn rd s) s

/-- LDRB (R232). -/
def execArmLdrb (c : Cond) (ix : Index) (up : Bool) (off : WordOffset) (rn rd : Reg) (s : State) :
    Host.Outcome State Fault Refusal :=
  gated c (fun s => loadEffect loadByte (addrSingle s ix up off rn) rn rd (some .ldrbToR15) s) s

/-- STRB (R233). -/
def execArmStrb (c : Cond) (ix : Index) (up : Bool) (off : WordOffset) (rn rd : Reg) (s : State) :
    Host.Outcome State Fault Refusal :=
  gated c (fun s => storeEffect storeByte (addrSingle s ix up off rn) rn rd s) s

/-- LDRT (R234): LDR, post-indexed. -/
def execArmLdrt (c : Cond) (up : Bool) (off : WordOffset) (rn rd : Reg) (s : State) :
    Host.Outcome State Fault Refusal :=
  gated c (fun s => loadEffect loadWord (addrSingle s .post up off rn) rn rd none s) s

/-- LDRBT (R235): LDRB, post-indexed. -/
def execArmLdrbt (c : Cond) (up : Bool) (off : WordOffset) (rn rd : Reg) (s : State) :
    Host.Outcome State Fault Refusal :=
  gated c (fun s => loadEffect loadByte (addrSingle s .post up off rn) rn rd (some .ldrbToR15) s) s

/-- STRT (R236): STR, post-indexed. -/
def execArmStrt (c : Cond) (up : Bool) (off : WordOffset) (rn rd : Reg) (s : State) :
    Host.Outcome State Fault Refusal :=
  gated c (fun s => storeEffect storeWord (addrSingle s .post up off rn) rn rd s) s

/-- STRBT (R237): STRB, post-indexed. -/
def execArmStrbt (c : Cond) (up : Bool) (off : WordOffset) (rn rd : Reg) (s : State) :
    Host.Outcome State Fault Refusal :=
  gated c (fun s => storeEffect storeByte (addrSingle s .post up off rn) rn rd s) s

/-- LDRH (R240). -/
def execArmLdrh (c : Cond) (ix : Index) (up : Bool) (off : HalfOffset) (rn rd : Reg) (s : State) :
    Host.Outcome State Fault Refusal :=
  gated c (fun s => loadEffect loadHalf (addrHalf s ix up off rn) rn rd (some .ldrhToR15) s) s

/-- STRH (R241). -/
def execArmStrh (c : Cond) (ix : Index) (up : Bool) (off : HalfOffset) (rn rd : Reg) (s : State) :
    Host.Outcome State Fault Refusal :=
  gated c (fun s => storeEffect storeHalf (addrHalf s ix up off rn) rn rd s) s

/-- LDRSB (R242); into r15 as LDRH, by U25 (DEDUCED, log 12). -/
def execArmLdrsb (c : Cond) (ix : Index) (up : Bool) (off : HalfOffset) (rn rd : Reg) (s : State) :
    Host.Outcome State Fault Refusal :=
  gated c (fun s => loadEffect loadSignedByte (addrHalf s ix up off rn) rn rd (some .ldrhToR15) s) s

/-- LDRSH (R243); into r15 as LDRH, by U25 (DEDUCED, log 12). -/
def execArmLdrsh (c : Cond) (ix : Index) (up : Bool) (off : HalfOffset) (rn rd : Reg) (s : State) :
    Host.Outcome State Fault Refusal :=
  gated c (fun s => loadEffect loadSignedHalf (addrHalf s ix up off rn) rn rd (some .ldrhToR15) s) s

/-- Swap (R256, R257): address and source are read first, then load, store, destination; one internal cycle. -/
def swapEffect (load : Word → State → Word × State) (store : Word → Word → State → State) (rn rd rm : Reg) (s : State) :
    State :=
  let addr := s.armReg rn
  let src := s.armReg rm
  let r := load addr (s.logIf (rn == 15 || rd == 15 || rm == 15) (.unpredictable .swpR15))
  writeArm rd r.1 ((store addr src r.2).charge 1)

/-- SWP (R256). -/
def execArmSwp (c : Cond) (rn rd rm : Reg) (s : State) : Host.Outcome State Fault Refusal :=
  gated c (swapEffect loadWord storeWord rn rd rm) s

/-- SWPB (R257). -/
def execArmSwpb (c : Cond) (rn rd rm : Reg) (s : State) : Host.Outcome State Fault Refusal :=
  gated c (swapEffect loadByte storeByte rn rd rm) s

end Sys2Proof.Machine
end

