-- ==== Sys2Proof/Machine/ArmMultiply.lean ====
section
/-! DEFINITION. ARM multiplies (`42_arm_multiply.md` R220 to R227). The unpredictable register uses run with the
result the rules fix and are logged (DEDUCED, log 13). -/

namespace Sys2Proof.Machine

/-- `MulCycles(rs, signed_ok)` (R174). -/
def mulCycles (rs : Word) (signedOk : Bool) : Nat :=
  let small := fun n => rs >>> n == 0#32 || (signedOk && rs.sshiftRight n == 0xFFFFFFFF#32)
  if small 8 then 1 else if small 16 then 2 else if small 24 then 3 else 4

/-- MUL and MLA (R220, R221): `acc` is the accumulate operand, `extra` its extra internal cycles, `usesPc` whether
r15 stands in a field. -/
def multiplyEffect (sf : Bool) (rd rs rm : Reg) (acc : State → Word) (extra : Nat) (usesPc : Bool) (s : State) : State :=
  let r := s.armReg rm * s.armReg rs + acc s
  let s1 := s.logIf (rd == rm) (.unpredictable .mulRdRm)
  let s2 := s1.logIf usesPc (.unpredictable .mulR15)
  let s3 := s2.charge (mulCycles (s.armReg rs) true + extra)
  writeArm rd r (if sf then s3.withCpsr (nzFlags s.cpsr r) else s3)

/-- MUL (R220). -/
def execArmMul (c : Cond) (sf : Bool) (rd rs rm : Reg) (s : State) : Host.Outcome State Fault Refusal :=
  gated c (multiplyEffect sf rd rs rm (fun _ => 0) 0 (rd == 15 || rs == 15 || rm == 15)) s

/-- MLA (R221). -/
def execArmMla (c : Cond) (sf : Bool) (rd rn rs rm : Reg) (s : State) : Host.Outcome State Fault Refusal :=
  gated c (multiplyEffect sf rd rs rm (fun s => s.armReg rn) 1 (rd == 15 || rn == 15 || rs == 15 || rm == 15)) s

/-- The 64-bit product of `ExecMULL` (R222). -/
def longProduct (signed : Bool) (m r : Word) : BitVec 64 :=
  if signed then m.signExtend 64 * r.signExtend 64 else m.setWidth 64 * r.setWidth 64

/-- The write of one half of a long product (R222): r15 is written through `WritePC`. -/
def writeLong (rd : Reg) (v : Word) (s : State) : State := if rd = 15 then writePc v s else s.setReg rd v

/-- `ExecMULL` (R222): everything is read first, RdLo is written before RdHi. -/
def multiplyLongEffect (signed acc sf : Bool) (rdHi rdLo rs rm : Reg) (s : State) : State :=
  let prod := longProduct signed (s.armReg rm) (s.armReg rs)
  let p := if acc then prod + (s.armReg rdHi ++ s.armReg rdLo) else prod
  let s1 := s.logIf (rdHi == rdLo || rdHi == rm || rdLo == rm) (.unpredictable .mullOverlap)
  let s2 := s1.logIf (rdHi == 15 || rdLo == 15 || rs == 15 || rm == 15) (.unpredictable .mullR15)
  let s3 := s2.charge (mulCycles (s.armReg rs) signed + (if acc then 2 else 1))
  let s4 := if sf then s3.withCpsr (nzFlags64 s.cpsr p) else s3
  let s5 := writeLong rdHi (p.extractLsb' 32 32) (writeLong rdLo (p.extractLsb' 0 32) s4)
  if rdHi = 15 ∨ rdLo = 15 then s5 else advanceArm s5

/-- UMULL (R223). -/
def execArmUmull (c : Cond) (sf : Bool) (rdHi rdLo rs rm : Reg) (s : State) : Host.Outcome State Fault Refusal :=
  gated c (multiplyLongEffect false false sf rdHi rdLo rs rm) s

/-- UMLAL (R224). -/
def execArmUmlal (c : Cond) (sf : Bool) (rdHi rdLo rs rm : Reg) (s : State) : Host.Outcome State Fault Refusal :=
  gated c (multiplyLongEffect false true sf rdHi rdLo rs rm) s

/-- SMULL (R225). -/
def execArmSmull (c : Cond) (sf : Bool) (rdHi rdLo rs rm : Reg) (s : State) : Host.Outcome State Fault Refusal :=
  gated c (multiplyLongEffect true false sf rdHi rdLo rs rm) s

/-- SMLAL (R226). -/
def execArmSmlal (c : Cond) (sf : Bool) (rdHi rdLo rs rm : Reg) (s : State) : Host.Outcome State Fault Refusal :=
  gated c (multiplyLongEffect true true sf rdHi rdLo rs rm) s

end Sys2Proof.Machine
end

