-- ==== Sys2Proof/Machine/ArmStatus.lean ====
section
/-! DEFINITION. ARM status-register transfers (`41_arm_data_processing.md` R207 to R209). -/

namespace Sys2Proof.Machine

/-- The effect of MRS (R207). Into r15 it is unpredictable: logged, and the value is written to `pc`. -/
def mrsEffect (p : StatusWord) (rd : Reg) (s : State) : State :=
  let r := readStatus p s
  writeArm rd r.1 (r.2.logIf (rd == 15) (.unpredictable .mrsToR15))

/-- MRS (R207). -/
def execArmMrs (c : Cond) (p : StatusWord) (rd : Reg) (s : State) : Host.Outcome State Fault Refusal :=
  gated c (mrsEffect p rd) s

/-- The words of MRS with bit 25 = 1: "executed as this rule too, its low 12 bits ignored" (R207). -/
def execArmMrsBit25 (c : Cond) (p : StatusWord) (rd : Reg) (s : State) : Host.Outcome State Fault Refusal :=
  gated c (mrsEffect p rd) s

/-- MSR from a register (R208); r15 reads `A + 8`. -/
def execArmMsrReg (c : Cond) (p : StatusWord) (fsxc : BitVec 4) (rm : Reg) (s : State) :
    Host.Outcome State Fault Refusal :=
  gated c (fun s => advanceArm (msrWrite p fsxc (s.armReg rm) s)) s

/-- MSR from an immediate (R209). -/
def execArmMsrImm (c : Cond) (p : StatusWord) (fsxc rot : BitVec 4) (imm8 : BitVec 8) (s : State) :
    Host.Outcome State Fault Refusal :=
  gated c (fun s => advanceArm (msrWrite p fsxc (rotatedImm rot imm8) s)) s

end Sys2Proof.Machine
end

