-- ==== Sys2Proof/Machine/ThumbAlu.lean ====
section
/-! DEFINITION. THUMB arithmetic, logic and register moves: formats 1 to 5, 12 and 13 (`45_thumb_alu.md`). No THUMB
instruction of these formats has a condition (R280). -/

namespace Sys2Proof.Machine

/-- A logical result (R280): the register when there is one, N and Z, C from `sc`, V kept. -/
def thumbLogical (rd : Option LoReg) (r : Word) (sc : Bool) (s : State) : State :=
  let s1 :=
    match rd with
    | some rd => s.setLoReg rd r
    | none => s
  advanceThumb (s1.withCpsr (logicalFlags s.cpsr r sc))

/-- An arithmetic result (R280): the register when there is one, N, Z, C and V from the adder. -/
def thumbArithmetic (rd : Option LoReg) (r : Sum) (s : State) : State :=
  let s1 :=
    match rd with
    | some rd => s.setLoReg rd r.value
    | none => s
  advanceThumb (s1.withCpsr (arithmeticFlags s.cpsr r))

/-- A shift by an immediate field (R281 to R283). -/
def thumbShiftImm (kind : ShiftKind) (imm5 : BitVec 5) (rs rd : LoReg) (s : State) : State :=
  let o := shiftImm kind (s.loReg rs) imm5 s.c
  thumbLogical (some rd) o.value o.carry s

/-- A shift by a register's low byte: one internal cycle (R294 to R296, R299). -/
def thumbShiftReg (kind : ShiftKind) (rs rd : LoReg) (s : State) : State :=
  let o := shift kind (s.loReg rd) (byteOf (s.loReg rs) 0).toNat s.c
  thumbLogical (some rd) o.value o.carry (s.charge 1)

/-- The event of format 5 with two low registers (R320 to R322). -/
def format5Event (rs rd : Reg) (s : State) : State :=
  s.logIf (decide (rs.val < 8) && decide (rd.val < 8)) (.unpredictable .format5LowLow)

/-- The program counter as formats 6 and 12 read it: `(A + 4) & ~3` (R26). -/
def alignedPc (s : State) : Word := alignWord (s.pc + BitVec.ofNat 32 thumbAhead)

/-- An 8-bit immediate counting words (R145). -/
def wordsImm8 (imm8 : BitVec 8) : Word := imm8.setWidth 32 <<< 2

/-- LSL by an immediate (R281). -/
def execThumbLslImm (imm5 : BitVec 5) (rs rd : LoReg) (s : State) : Host.Outcome State Fault Refusal :=
  .next (thumbShiftImm .lsl imm5 rs rd s)

/-- LSR by an immediate (R282). -/
def execThumbLsrImm (imm5 : BitVec 5) (rs rd : LoReg) (s : State) : Host.Outcome State Fault Refusal :=
  .next (thumbShiftImm .lsr imm5 rs rd s)

/-- ASR by an immediate (R283). -/
def execThumbAsrImm (imm5 : BitVec 5) (rs rd : LoReg) (s : State) : Host.Outcome State Fault Refusal :=
  .next (thumbShiftImm .asr imm5 rs rd s)

/-- ADD of registers (R284). -/
def execThumbAddReg (rn rs rd : LoReg) (s : State) : Host.Outcome State Fault Refusal :=
  .next (thumbArithmetic (some rd) (addWithCarry (s.loReg rs) (s.loReg rn) false) s)

/-- SUB of registers (R285). -/
def execThumbSubReg (rn rs rd : LoReg) (s : State) : Host.Outcome State Fault Refusal :=
  .next (thumbArithmetic (some rd) (subWithCarry (s.loReg rs) (s.loReg rn) true) s)

/-- ADD of a 3-bit immediate (R286). -/
def execThumbAddImm3 (imm3 : BitVec 3) (rs rd : LoReg) (s : State) : Host.Outcome State Fault Refusal :=
  .next (thumbArithmetic (some rd) (addWithCarry (s.loReg rs) (imm3.setWidth 32) false) s)

/-- SUB of a 3-bit immediate (R287). -/
def execThumbSubImm3 (imm3 : BitVec 3) (rs rd : LoReg) (s : State) : Host.Outcome State Fault Refusal :=
  .next (thumbArithmetic (some rd) (subWithCarry (s.loReg rs) (imm3.setWidth 32) true) s)

/-- MOV of an 8-bit immediate: C and V kept (R288). -/
def execThumbMovImm (rd : LoReg) (imm8 : BitVec 8) (s : State) : Host.Outcome State Fault Refusal :=
  .next (thumbLogical (some rd) (imm8.setWidth 32) s.c s)

/-- CMP with an 8-bit immediate (R289). -/
def execThumbCmpImm (rd : LoReg) (imm8 : BitVec 8) (s : State) : Host.Outcome State Fault Refusal :=
  .next (thumbArithmetic none (subWithCarry (s.loReg rd) (imm8.setWidth 32) true) s)

/-- ADD of an 8-bit immediate (R290). -/
def execThumbAddImm8 (rd : LoReg) (imm8 : BitVec 8) (s : State) : Host.Outcome State Fault Refusal :=
  .next (thumbArithmetic (some rd) (addWithCarry (s.loReg rd) (imm8.setWidth 32) false) s)

/-- SUB of an 8-bit immediate (R291). -/
def execThumbSubImm8 (rd : LoReg) (imm8 : BitVec 8) (s : State) : Host.Outcome State Fault Refusal :=
  .next (thumbArithmetic (some rd) (subWithCarry (s.loReg rd) (imm8.setWidth 32) true) s)

/-- AND (R292). -/
def execThumbAnd (rs rd : LoReg) (s : State) : Host.Outcome State Fault Refusal :=
  .next (thumbLogical (some rd) (s.loReg rd &&& s.loReg rs) s.c s)

/-- EOR (R293). -/
def execThumbEor (rs rd : LoReg) (s : State) : Host.Outcome State Fault Refusal :=
  .next (thumbLogical (some rd) (s.loReg rd ^^^ s.loReg rs) s.c s)

/-- LSL by a register (R294). -/
def execThumbLslReg (rs rd : LoReg) (s : State) : Host.Outcome State Fault Refusal :=
  .next (thumbShiftReg .lsl rs rd s)

/-- LSR by a register (R295). -/
def execThumbLsrReg (rs rd : LoReg) (s : State) : Host.Outcome State Fault Refusal :=
  .next (thumbShiftReg .lsr rs rd s)

/-- ASR by a register (R296). -/
def execThumbAsrReg (rs rd : LoReg) (s : State) : Host.Outcome State Fault Refusal :=
  .next (thumbShiftReg .asr rs rd s)

/-- ADC (R297). -/
def execThumbAdc (rs rd : LoReg) (s : State) : Host.Outcome State Fault Refusal :=
  .next (thumbArithmetic (some rd) (addWithCarry (s.loReg rd) (s.loReg rs) s.c) s)

/-- SBC (R298). -/
def execThumbSbc (rs rd : LoReg) (s : State) : Host.Outcome State Fault Refusal :=
  .next (thumbArithmetic (some rd) (subWithCarry (s.loReg rd) (s.loReg rs) s.c) s)

/-- ROR by a register (R299). -/
def execThumbRorReg (rs rd : LoReg) (s : State) : Host.Outcome State Fault Refusal :=
  .next (thumbShiftReg .ror rs rd s)

/-- TST (R300). -/
def execThumbTst (rs rd : LoReg) (s : State) : Host.Outcome State Fault Refusal :=
  .next (thumbLogical none (s.loReg rd &&& s.loReg rs) s.c s)

/-- NEG (R301). -/
def execThumbNeg (rs rd : LoReg) (s : State) : Host.Outcome State Fault Refusal :=
  .next (thumbArithmetic (some rd) (subWithCarry 0 (s.loReg rs) true) s)

/-- CMP of low registers (R302). -/
def execThumbCmpReg (rs rd : LoReg) (s : State) : Host.Outcome State Fault Refusal :=
  .next (thumbArithmetic none (subWithCarry (s.loReg rd) (s.loReg rs) true) s)

/-- CMN (R303). -/
def execThumbCmn (rs rd : LoReg) (s : State) : Host.Outcome State Fault Refusal :=
  .next (thumbArithmetic none (addWithCarry (s.loReg rd) (s.loReg rs) false) s)

/-- ORR (R304). -/
def execThumbOrr (rs rd : LoReg) (s : State) : Host.Outcome State Fault Refusal :=
  .next (thumbLogical (some rd) (s.loReg rd ||| s.loReg rs) s.c s)

/-- MUL (R305): the cycles are those of the old `x[Rd]`. -/
def execThumbMul (rs rd : LoReg) (s : State) : Host.Outcome State Fault Refusal :=
  .next (thumbLogical (some rd) (s.loReg rd * s.loReg rs) s.c (s.charge (mulCycles (s.loReg rd) true)))

/-- BIC (R306). -/
def execThumbBic (rs rd : LoReg) (s : State) : Host.Outcome State Fault Refusal :=
  .next (thumbLogical (some rd) (s.loReg rd &&& ~~~(s.loReg rs)) s.c s)

/-- MVN (R307). -/
def execThumbMvn (rs rd : LoReg) (s : State) : Host.Outcome State Fault Refusal :=
  .next (thumbLogical (some rd) (~~~(s.loReg rs)) s.c s)

/-- ADD with high registers (R320): no flags. -/
def execThumbAddHigh (rs rd : Reg) (s : State) : Host.Outcome State Fault Refusal :=
  .next (writeThumb rd (s.thumbReg rd + s.thumbReg rs) (format5Event rs rd s))

/-- CMP with high registers (R321). -/
def execThumbCmpHigh (rs rd : Reg) (s : State) : Host.Outcome State Fault Refusal :=
  .next (thumbArithmetic none (subWithCarry (s.thumbReg rd) (s.thumbReg rs) true) (format5Event rs rd s))

/-- MOV with high registers (R322): no flags. -/
def execThumbMovHigh (rs rd : Reg) (s : State) : Host.Outcome State Fault Refusal :=
  .next (writeThumb rd (s.thumbReg rs) (format5Event rs rd s))

/-- BX (R323): from r15 at an address that is not a multiple of 4 it is logged. -/
def execThumbBx (rs : Reg) (s : State) : Host.Outcome State Fault Refusal :=
  .next (branchExchange (s.thumbReg rs) (s.logIf (rs == 15 && s.pc.getLsbD 1) (.unpredictable .bxPcMisaligned)))

/-- ADD Rd, PC, #imm (R325). -/
def execThumbAddPc (rd : LoReg) (imm8 : BitVec 8) (s : State) : Host.Outcome State Fault Refusal :=
  .next (advanceThumb (s.setLoReg rd (alignedPc s + wordsImm8 imm8)))

/-- ADD Rd, SP, #imm (R326). -/
def execThumbAddSp (rd : LoReg) (imm8 : BitVec 8) (s : State) : Host.Outcome State Fault Refusal :=
  .next (advanceThumb (s.setLoReg rd (s.thumbReg stackReg + wordsImm8 imm8)))

/-- ADD SP, #imm (R327). -/
def execThumbAddSpImm (imm7 : BitVec 7) (s : State) : Host.Outcome State Fault Refusal :=
  .next (advanceThumb (s.setReg stackReg (s.thumbReg stackReg + imm7.setWidth 32 <<< 2)))

/-- ADD SP, #-imm (R328). -/
def execThumbAddSpNegImm (imm7 : BitVec 7) (s : State) : Host.Outcome State Fault Refusal :=
  .next (advanceThumb (s.setReg stackReg (s.thumbReg stackReg - imm7.setWidth 32 <<< 2)))

end Sys2Proof.Machine
end

