-- ==== Sys2Proof/Machine/ThumbBranch.lean ====
section
/-! DEFINITION. THUMB branches, the software interrupt and the undefined variants: formats 16 to 19
(`47_thumb_branch.md`). -/

namespace Sys2Proof.Machine

/-- A target relative to `A + 4` (R370, R373). -/
def thumbTarget (s : State) (off : Word) : Word := s.pc + BitVec.ofNat 32 thumbAhead + off

/-- B<cond> (R370): the only THUMB format with a condition. -/
def execThumbBCond (c : Cond) (soff8 : BitVec 8) (s : State) : Host.Outcome State Fault Refusal :=
  .next (if condPassed s c then writePc (thumbTarget s (soff8.signExtend 32 <<< 1)) s else advanceThumb s)

/-- SWI (R372). -/
def execThumbSwi (_imm8 : BitVec 8) (s : State) : Host.Outcome State Fault Refusal :=
  .next (enterException .swi s)

/-- B (R373). -/
def execThumbB (off11 : BitVec 11) (s : State) : Host.Outcome State Fault Refusal :=
  .next (writePc (thumbTarget s (off11.signExtend 32 <<< 1)) s)

/-- BL, first halfword (R376). -/
def execThumbBlFirst (off11 : BitVec 11) (s : State) : Host.Outcome State Fault Refusal :=
  .next (advanceThumb (s.setReg linkReg (thumbTarget s (off11.signExtend 32 <<< 12))))

/-- BL, second halfword (R377). -/
def execThumbBlSecond (off11 : BitVec 11) (s : State) : Host.Outcome State Fault Refusal :=
  .next (writePc (s.thumbReg linkReg + off11.setWidth 32 <<< 1) (s.setReg linkReg ((s.pc + 2) ||| 1)))

/-- The halfwords 0xDExx (R380). -/
def execThumbUndCond (_imm8 : BitVec 8) (s : State) : Host.Outcome State Fault Refusal :=
  .next (illegal .tUND s)

/-- BKPT (R380). -/
def execThumbBkpt (_imm8 : BitVec 8) (s : State) : Host.Outcome State Fault Refusal :=
  .next (illegal .tBKPT s)

/-- The unallocated halfwords 0xBxxx (R380). -/
def execThumbUnd1011 (_low : BitVec 12) (s : State) : Host.Outcome State Fault Refusal :=
  .next (illegal .tUND s)

/-- The halfwords 0x4780 to 0x47FF (R380). -/
def execThumbUndBlxReg (_low : BitVec 7) (s : State) : Host.Outcome State Fault Refusal :=
  .next (illegal .tUBLX s)

/-- The halfwords 0xE800 to 0xEFFF (R380). -/
def execThumbUndBlxSuffix (_low : BitVec 11) (s : State) : Host.Outcome State Fault Refusal :=
  .next (illegal .tUBLX s)

end Sys2Proof.Machine
end

