-- ==== Sys2Proof/Machine/ThumbLoadStore.lean ====
section
/-! DEFINITION. THUMB loads and stores, push and pop, multiple transfers: formats 6 to 11, 14 and 15
(`46_thumb_load_store.md`). -/

namespace Sys2Proof.Machine

/-- A THUMB load: the access, one internal cycle, the register (46_thumb_load_store, R182). -/
def thumbLoad (load : Word → State → Word × State) (addr : Word) (rd : LoReg) (s : State) : State :=
  let r := load addr s
  advanceThumb ((r.2.charge 1).setLoReg rd r.1)

/-- A THUMB store. -/
def thumbStore (store : Word → Word → State → State) (addr : Word) (rd : LoReg) (s : State) : State :=
  advanceThumb (store addr (s.loReg rd) s)

/-- The address of formats 7 and 8: `x[Rb] + x[Ro]`. -/
def regOffsetAddr (s : State) (ro rb : LoReg) : Word := s.loReg rb + s.loReg ro

/-- The address of formats 9 and 10: a 5-bit offset counting units of `2 ^ scale` bytes (R145). -/
def immOffsetAddr (s : State) (imm5 : BitVec 5) (scale : Nat) (rb : LoReg) : Word :=
  s.loReg rb + imm5.setWidth 32 <<< scale

/-- The address of format 11 (R345, R346). -/
def spOffsetAddr (s : State) (imm8 : BitVec 8) : Word := s.thumbReg stackReg + wordsImm8 imm8

/-- The address of format 6 (R330). -/
def pcOffsetAddr (s : State) (imm8 : BitVec 8) : Word := alignedPc s + wordsImm8 imm8

/-- LDR Rd, [PC, #imm] (R330). -/
def execThumbLdrPc (rd : LoReg) (imm8 : BitVec 8) (s : State) : Host.Outcome State Fault Refusal :=
  .next (thumbLoad (memRead .word) (pcOffsetAddr s imm8) rd s)

/-- STR Rd, [Rb, Ro] (R331). -/
def execThumbStrReg (ro rb rd : LoReg) (s : State) : Host.Outcome State Fault Refusal :=
  .next (thumbStore storeWord (regOffsetAddr s ro rb) rd s)

/-- STRB Rd, [Rb, Ro] (R332). -/
def execThumbStrbReg (ro rb rd : LoReg) (s : State) : Host.Outcome State Fault Refusal :=
  .next (thumbStore storeByte (regOffsetAddr s ro rb) rd s)

/-- LDR Rd, [Rb, Ro] (R333). -/
def execThumbLdrReg (ro rb rd : LoReg) (s : State) : Host.Outcome State Fault Refusal :=
  .next (thumbLoad loadWord (regOffsetAddr s ro rb) rd s)

/-- LDRB Rd, [Rb, Ro] (R334). -/
def execThumbLdrbReg (ro rb rd : LoReg) (s : State) : Host.Outcome State Fault Refusal :=
  .next (thumbLoad loadByte (regOffsetAddr s ro rb) rd s)

/-- STRH Rd, [Rb, Ro] (R335). -/
def execThumbStrhReg (ro rb rd : LoReg) (s : State) : Host.Outcome State Fault Refusal :=
  .next (thumbStore storeHalf (regOffsetAddr s ro rb) rd s)

/-- LDRH Rd, [Rb, Ro] (R336). -/
def execThumbLdrhReg (ro rb rd : LoReg) (s : State) : Host.Outcome State Fault Refusal :=
  .next (thumbLoad loadHalf (regOffsetAddr s ro rb) rd s)

/-- LDSB Rd, [Rb, Ro] (R337). -/
def execThumbLdsbReg (ro rb rd : LoReg) (s : State) : Host.Outcome State Fault Refusal :=
  .next (thumbLoad loadSignedByte (regOffsetAddr s ro rb) rd s)

/-- LDSH Rd, [Rb, Ro] (R338). -/
def execThumbLdshReg (ro rb rd : LoReg) (s : State) : Host.Outcome State Fault Refusal :=
  .next (thumbLoad loadSignedHalf (regOffsetAddr s ro rb) rd s)

/-- STR Rd, [Rb, #imm] (R339). -/
def execThumbStrImm (imm5 : BitVec 5) (rb rd : LoReg) (s : State) : Host.Outcome State Fault Refusal :=
  .next (thumbStore storeWord (immOffsetAddr s imm5 2 rb) rd s)

/-- LDR Rd, [Rb, #imm] (R340). -/
def execThumbLdrImm (imm5 : BitVec 5) (rb rd : LoReg) (s : State) : Host.Outcome State Fault Refusal :=
  .next (thumbLoad loadWord (immOffsetAddr s imm5 2 rb) rd s)

/-- STRB Rd, [Rb, #imm] (R341). -/
def execThumbStrbImm (imm5 : BitVec 5) (rb rd : LoReg) (s : State) : Host.Outcome State Fault Refusal :=
  .next (thumbStore storeByte (immOffsetAddr s imm5 0 rb) rd s)

/-- LDRB Rd, [Rb, #imm] (R342). -/
def execThumbLdrbImm (imm5 : BitVec 5) (rb rd : LoReg) (s : State) : Host.Outcome State Fault Refusal :=
  .next (thumbLoad loadByte (immOffsetAddr s imm5 0 rb) rd s)

/-- STRH Rd, [Rb, #imm] (R343). -/
def execThumbStrhImm (imm5 : BitVec 5) (rb rd : LoReg) (s : State) : Host.Outcome State Fault Refusal :=
  .next (thumbStore storeHalf (immOffsetAddr s imm5 1 rb) rd s)

/-- LDRH Rd, [Rb, #imm] (R344). -/
def execThumbLdrhImm (imm5 : BitVec 5) (rb rd : LoReg) (s : State) : Host.Outcome State Fault Refusal :=
  .next (thumbLoad loadHalf (immOffsetAddr s imm5 1 rb) rd s)

/-- STR Rd, [SP, #imm] (R345). -/
def execThumbStrSp (rd : LoReg) (imm8 : BitVec 8) (s : State) : Host.Outcome State Fault Refusal :=
  .next (thumbStore storeWord (spOffsetAddr s imm8) rd s)

/-- LDR Rd, [SP, #imm] (R346). -/
def execThumbLdrSp (rd : LoReg) (imm8 : BitVec 8) (s : State) : Host.Outcome State Fault Refusal :=
  .next (thumbLoad loadWord (spOffsetAddr s imm8) rd s)

/-! ### Formats 14 and 15 -/

/-- The registers of an 8-bit list, ascending, then `extra` when its bit is set (R350, R351). -/
def thumbRegs (rlist : BitVec 8) (withExtra : Bool) (extra : Reg) : List Reg :=
  ((List.finRange 8).filter fun r => rlist.getLsbD r.val).map LoReg.toReg ++ (if withExtra then [extra] else [])

/-- The bytes of a list of registers. -/
def spanOf (regs : List Reg) : Word := BitVec.ofNat 32 (4 * regs.length)

/-- What an empty-list store stores: `A + 6` (R354). -/
def emptyStoreValue (s : State) : Word := s.pc + 6

/-- The span of an empty list (R354). -/
def emptySpan : Word := 0x40

/-- A store of a list of registers at rising word addresses from `start`, then the base (R350, R352, R354). An empty
list stores `A + 6` there. -/
def thumbStoreMultiple (value : Nat → Reg → Word) (regs : List Reg) (start : Word) (base : Reg) (final : Word)
    (s : State) : State :=
  let s1 := if regs = [] then memWrite .word (alignWord start) (emptyStoreValue s) s else storeBlock value 0 regs start s
  advanceThumb (s1.setReg base final)

/-- A load of a list of registers from rising word addresses, the base written first (R351, R353, R354). An empty
list loads `pc`. -/
def thumbLoadMultiple (regs : List Reg) (start : Word) (base : Reg) (final : Word) (s : State) : State :=
  let r := loadBlock s.mode (if regs = [] then [pcReg] else regs) start (s.setReg base final) none
  let s1 := r.1.charge 1
  match r.2 with
  | some newPc => writePc newPc s1
  | none => advanceThumb s1

/-- The bytes PUSH, POP, STMIA and LDMIA move the base by (R350 to R354). -/
def thumbSpan (regs : List Reg) : Word := if regs = [] then emptySpan else spanOf regs

/-- PUSH (R350, R354). -/
def execThumbPush (r : Bool) (rlist : BitVec 8) (s : State) : Host.Outcome State Fault Refusal :=
  let regs := thumbRegs rlist r linkReg
  let start := s.thumbReg stackReg - thumbSpan regs
  .next (thumbStoreMultiple (fun _ n => s.thumbReg n) regs start stackReg start s)

/-- POP (R351, R354). -/
def execThumbPop (r : Bool) (rlist : BitVec 8) (s : State) : Host.Outcome State Fault Refusal :=
  let regs := thumbRegs rlist r pcReg
  let start := s.thumbReg stackReg
  .next (thumbLoadMultiple regs start stackReg (start + thumbSpan regs) s)

/-- What STMIA stores for register `n` at place `k` (R352). -/
def stmiaValue (s : State) (rb : LoReg) (base final : Word) (k : Nat) (n : Reg) : Word :=
  if n = rb.toReg then (if k = 0 then base else final) else s.thumbReg n

/-- STMIA (R352, R354). -/
def execThumbStmia (rb : LoReg) (rlist : BitVec 8) (s : State) : Host.Outcome State Fault Refusal :=
  let regs := thumbRegs rlist false pcReg
  let base := s.loReg rb
  let final := base + thumbSpan regs
  .next (thumbStoreMultiple (stmiaValue s rb base final) regs base rb.toReg final s)

/-- LDMIA (R353, R354). -/
def execThumbLdmia (rb : LoReg) (rlist : BitVec 8) (s : State) : Host.Outcome State Fault Refusal :=
  let regs := thumbRegs rlist false pcReg
  let base := s.loReg rb
  .next (thumbLoadMultiple regs base rb.toReg (base + thumbSpan regs) s)

end Sys2Proof.Machine
end

