-- ==== Sys2Proof/Machine/Dispatch.lean ====
section
/-! DEFINITION. Which meaning each instruction has: one arm per constructor of `Instr`. -/

namespace Sys2Proof.Machine

def exec (i : Instr) (s : State) : Host.Outcome State Fault Refusal :=
  match i with
  | .armBx c rn => Sys2Proof.Machine.execArmBx c rn s
  | .armBkpt c imm12 imm4 => Sys2Proof.Machine.execArmBkpt c imm12 imm4 s
  | .armMul c sf rd rs rm => Sys2Proof.Machine.execArmMul c sf rd rs rm s
  | .armMla c sf rd rn rs rm => Sys2Proof.Machine.execArmMla c sf rd rn rs rm s
  | .armUmull c sf rdHi rdLo rs rm => Sys2Proof.Machine.execArmUmull c sf rdHi rdLo rs rm s
  | .armUmlal c sf rdHi rdLo rs rm => Sys2Proof.Machine.execArmUmlal c sf rdHi rdLo rs rm s
  | .armSmull c sf rdHi rdLo rs rm => Sys2Proof.Machine.execArmSmull c sf rdHi rdLo rs rm s
  | .armSmlal c sf rdHi rdLo rs rm => Sys2Proof.Machine.execArmSmlal c sf rdHi rdLo rs rm s
  | .armSwp c rn rd rm => Sys2Proof.Machine.execArmSwp c rn rd rm s
  | .armSwpb c rn rd rm => Sys2Proof.Machine.execArmSwpb c rn rd rm s
  | .armUndMulSwap c hi lo => Sys2Proof.Machine.execArmUndMulSwap c hi lo s
  | .armUndLdrdStrd c puiw mid h lo => Sys2Proof.Machine.execArmUndLdrdStrd c puiw mid h lo s
  | .armLdrh c ix up off rn rd => Sys2Proof.Machine.execArmLdrh c ix up off rn rd s
  | .armStrh c ix up off rn rd => Sys2Proof.Machine.execArmStrh c ix up off rn rd s
  | .armLdrsb c ix up off rn rd => Sys2Proof.Machine.execArmLdrsb c ix up off rn rd s
  | .armLdrsh c ix up off rn rd => Sys2Proof.Machine.execArmLdrsh c ix up off rn rd s
  | .armMrs c p rd => Sys2Proof.Machine.execArmMrs c p rd s
  | .armMrsBit25 c p rd => Sys2Proof.Machine.execArmMrsBit25 c p rd s
  | .armMsrReg c p fsxc rm => Sys2Proof.Machine.execArmMsrReg c p fsxc rm s
  | .armMsrImm c p fsxc rot imm8 => Sys2Proof.Machine.execArmMsrImm c p fsxc rot imm8 s
  | .armAnd c sf rd rn op2 => Sys2Proof.Machine.execArmAnd c sf rd rn op2 s
  | .armEor c sf rd rn op2 => Sys2Proof.Machine.execArmEor c sf rd rn op2 s
  | .armSub c sf rd rn op2 => Sys2Proof.Machine.execArmSub c sf rd rn op2 s
  | .armRsb c sf rd rn op2 => Sys2Proof.Machine.execArmRsb c sf rd rn op2 s
  | .armAdd c sf rd rn op2 => Sys2Proof.Machine.execArmAdd c sf rd rn op2 s
  | .armAdc c sf rd rn op2 => Sys2Proof.Machine.execArmAdc c sf rd rn op2 s
  | .armSbc c sf rd rn op2 => Sys2Proof.Machine.execArmSbc c sf rd rn op2 s
  | .armRsc c sf rd rn op2 => Sys2Proof.Machine.execArmRsc c sf rd rn op2 s
  | .armTst c rn op2 => Sys2Proof.Machine.execArmTst c rn op2 s
  | .armTeq c rn op2 => Sys2Proof.Machine.execArmTeq c rn op2 s
  | .armCmp c rn op2 => Sys2Proof.Machine.execArmCmp c rn op2 s
  | .armCmn c rn op2 => Sys2Proof.Machine.execArmCmn c rn op2 s
  | .armOrr c sf rd rn op2 => Sys2Proof.Machine.execArmOrr c sf rd rn op2 s
  | .armMov c sf rd op2 => Sys2Proof.Machine.execArmMov c sf rd op2 s
  | .armBic c sf rd rn op2 => Sys2Proof.Machine.execArmBic c sf rd rn op2 s
  | .armMvn c sf rd op2 => Sys2Proof.Machine.execArmMvn c sf rd op2 s
  | .armUnd c hi lo => Sys2Proof.Machine.execArmUnd c hi lo s
  | .armLdrt c up off rn rd => Sys2Proof.Machine.execArmLdrt c up off rn rd s
  | .armLdrbt c up off rn rd => Sys2Proof.Machine.execArmLdrbt c up off rn rd s
  | .armStrt c up off rn rd => Sys2Proof.Machine.execArmStrt c up off rn rd s
  | .armStrbt c up off rn rd => Sys2Proof.Machine.execArmStrbt c up off rn rd s
  | .armLdr c ix up off rn rd => Sys2Proof.Machine.execArmLdr c ix up off rn rd s
  | .armStr c ix up off rn rd => Sys2Proof.Machine.execArmStr c ix up off rn rd s
  | .armLdrb c ix up off rn rd => Sys2Proof.Machine.execArmLdrb c ix up off rn rd s
  | .armStrb c ix up off rn rd => Sys2Proof.Machine.execArmStrb c ix up off rn rd s
  | .armLdm c mode sbit w rn list => Sys2Proof.Machine.execArmLdm c mode sbit w rn list s
  | .armStm c mode sbit w rn list => Sys2Proof.Machine.execArmStm c mode sbit w rn list s
  | .armB c off24 => Sys2Proof.Machine.execArmB c off24 s
  | .armBl c off24 => Sys2Proof.Machine.execArmBl c off24 s
  | .armLdc c punw rn crd cp off8 => Sys2Proof.Machine.execArmLdc c punw rn crd cp off8 s
  | .armStc c punw rn crd cp off8 => Sys2Proof.Machine.execArmStc c punw rn crd cp off8 s
  | .armCdp c opc1 crn crd cp opc2 crm => Sys2Proof.Machine.execArmCdp c opc1 crn crd cp opc2 crm s
  | .armMrc c opc1 crn rd cp opc2 crm => Sys2Proof.Machine.execArmMrc c opc1 crn rd cp opc2 crm s
  | .armMcr c opc1 crn rd cp opc2 crm => Sys2Proof.Machine.execArmMcr c opc1 crn rd cp opc2 crm s
  | .armSwi c comment => Sys2Proof.Machine.execArmSwi c comment s
  | .thumbSwi imm8 => Sys2Proof.Machine.execThumbSwi imm8 s
  | .thumbUndCond imm8 => Sys2Proof.Machine.execThumbUndCond imm8 s
  | .thumbBCond c soff8 => Sys2Proof.Machine.execThumbBCond c soff8 s
  | .thumbBkpt imm8 => Sys2Proof.Machine.execThumbBkpt imm8 s
  | .thumbAddSpImm imm7 => Sys2Proof.Machine.execThumbAddSpImm imm7 s
  | .thumbAddSpNegImm imm7 => Sys2Proof.Machine.execThumbAddSpNegImm imm7 s
  | .thumbPush r rlist => Sys2Proof.Machine.execThumbPush r rlist s
  | .thumbPop r rlist => Sys2Proof.Machine.execThumbPop r rlist s
  | .thumbUnd1011 low => Sys2Proof.Machine.execThumbUnd1011 low s
  | .thumbAddReg rn rs rd => Sys2Proof.Machine.execThumbAddReg rn rs rd s
  | .thumbSubReg rn rs rd => Sys2Proof.Machine.execThumbSubReg rn rs rd s
  | .thumbAddImm3 imm3 rs rd => Sys2Proof.Machine.execThumbAddImm3 imm3 rs rd s
  | .thumbSubImm3 imm3 rs rd => Sys2Proof.Machine.execThumbSubImm3 imm3 rs rd s
  | .thumbLslImm imm5 rs rd => Sys2Proof.Machine.execThumbLslImm imm5 rs rd s
  | .thumbLsrImm imm5 rs rd => Sys2Proof.Machine.execThumbLsrImm imm5 rs rd s
  | .thumbAsrImm imm5 rs rd => Sys2Proof.Machine.execThumbAsrImm imm5 rs rd s
  | .thumbMovImm rd imm8 => Sys2Proof.Machine.execThumbMovImm rd imm8 s
  | .thumbCmpImm rd imm8 => Sys2Proof.Machine.execThumbCmpImm rd imm8 s
  | .thumbAddImm8 rd imm8 => Sys2Proof.Machine.execThumbAddImm8 rd imm8 s
  | .thumbSubImm8 rd imm8 => Sys2Proof.Machine.execThumbSubImm8 rd imm8 s
  | .thumbAnd rs rd => Sys2Proof.Machine.execThumbAnd rs rd s
  | .thumbEor rs rd => Sys2Proof.Machine.execThumbEor rs rd s
  | .thumbLslReg rs rd => Sys2Proof.Machine.execThumbLslReg rs rd s
  | .thumbLsrReg rs rd => Sys2Proof.Machine.execThumbLsrReg rs rd s
  | .thumbAsrReg rs rd => Sys2Proof.Machine.execThumbAsrReg rs rd s
  | .thumbAdc rs rd => Sys2Proof.Machine.execThumbAdc rs rd s
  | .thumbSbc rs rd => Sys2Proof.Machine.execThumbSbc rs rd s
  | .thumbRorReg rs rd => Sys2Proof.Machine.execThumbRorReg rs rd s
  | .thumbTst rs rd => Sys2Proof.Machine.execThumbTst rs rd s
  | .thumbNeg rs rd => Sys2Proof.Machine.execThumbNeg rs rd s
  | .thumbCmpReg rs rd => Sys2Proof.Machine.execThumbCmpReg rs rd s
  | .thumbCmn rs rd => Sys2Proof.Machine.execThumbCmn rs rd s
  | .thumbOrr rs rd => Sys2Proof.Machine.execThumbOrr rs rd s
  | .thumbMul rs rd => Sys2Proof.Machine.execThumbMul rs rd s
  | .thumbBic rs rd => Sys2Proof.Machine.execThumbBic rs rd s
  | .thumbMvn rs rd => Sys2Proof.Machine.execThumbMvn rs rd s
  | .thumbUndBlxReg low => Sys2Proof.Machine.execThumbUndBlxReg low s
  | .thumbAddHigh rs rd => Sys2Proof.Machine.execThumbAddHigh rs rd s
  | .thumbCmpHigh rs rd => Sys2Proof.Machine.execThumbCmpHigh rs rd s
  | .thumbMovHigh rs rd => Sys2Proof.Machine.execThumbMovHigh rs rd s
  | .thumbBx rs => Sys2Proof.Machine.execThumbBx rs s
  | .thumbLdrPc rd imm8 => Sys2Proof.Machine.execThumbLdrPc rd imm8 s
  | .thumbStrhReg ro rb rd => Sys2Proof.Machine.execThumbStrhReg ro rb rd s
  | .thumbLdsbReg ro rb rd => Sys2Proof.Machine.execThumbLdsbReg ro rb rd s
  | .thumbLdrhReg ro rb rd => Sys2Proof.Machine.execThumbLdrhReg ro rb rd s
  | .thumbLdshReg ro rb rd => Sys2Proof.Machine.execThumbLdshReg ro rb rd s
  | .thumbStrReg ro rb rd => Sys2Proof.Machine.execThumbStrReg ro rb rd s
  | .thumbStrbReg ro rb rd => Sys2Proof.Machine.execThumbStrbReg ro rb rd s
  | .thumbLdrReg ro rb rd => Sys2Proof.Machine.execThumbLdrReg ro rb rd s
  | .thumbLdrbReg ro rb rd => Sys2Proof.Machine.execThumbLdrbReg ro rb rd s
  | .thumbStrImm imm5 rb rd => Sys2Proof.Machine.execThumbStrImm imm5 rb rd s
  | .thumbLdrImm imm5 rb rd => Sys2Proof.Machine.execThumbLdrImm imm5 rb rd s
  | .thumbStrbImm imm5 rb rd => Sys2Proof.Machine.execThumbStrbImm imm5 rb rd s
  | .thumbLdrbImm imm5 rb rd => Sys2Proof.Machine.execThumbLdrbImm imm5 rb rd s
  | .thumbStrhImm imm5 rb rd => Sys2Proof.Machine.execThumbStrhImm imm5 rb rd s
  | .thumbLdrhImm imm5 rb rd => Sys2Proof.Machine.execThumbLdrhImm imm5 rb rd s
  | .thumbStrSp rd imm8 => Sys2Proof.Machine.execThumbStrSp rd imm8 s
  | .thumbLdrSp rd imm8 => Sys2Proof.Machine.execThumbLdrSp rd imm8 s
  | .thumbAddPc rd imm8 => Sys2Proof.Machine.execThumbAddPc rd imm8 s
  | .thumbAddSp rd imm8 => Sys2Proof.Machine.execThumbAddSp rd imm8 s
  | .thumbStmia rb rlist => Sys2Proof.Machine.execThumbStmia rb rlist s
  | .thumbLdmia rb rlist => Sys2Proof.Machine.execThumbLdmia rb rlist s
  | .thumbB off11 => Sys2Proof.Machine.execThumbB off11 s
  | .thumbUndBlxSuffix low => Sys2Proof.Machine.execThumbUndBlxSuffix low s
  | .thumbBlFirst off11 => Sys2Proof.Machine.execThumbBlFirst off11 s
  | .thumbBlSecond off11 => Sys2Proof.Machine.execThumbBlSecond off11 s

end Sys2Proof.Machine
end

