-- ==== Sys2Proof/WellFormed.lean ====
section
/-! DEFINITION. Which terms of `Instr` stand for a word the decoder gives that instruction for. Only three
constructors carry a field with values that belong to another row of the table; everything else is well formed. -/

namespace Sys2Proof

/-- Bits 24:8 of a word of the space "bits 27:25 = 000, bits 7:4 = 1001" belong to entry A6 when none of the
entries A3 (multiply), A4 (multiply long) and A5 (swap) takes it first (R122). Bit `i` of `hi` is bit `i + 8`
of the word. -/
def undMulSwapAllowed (hi : BitVec 17) : Bool :=
  hi.extractLsb' 14 3 != 0#3 && hi.extractLsb' 15 2 != 0b01#2 &&
    !(hi.extractLsb' 15 2 == 0b10#2 && hi.extractLsb' 12 2 == 0#2 && hi.extractLsb' 0 4 == 0#4)

/-- Bits 11:0 of a halfword 1011 xxxx xxxxxxxx are unallocated when none of the entries T4 (BKPT), T5 (format 13)
and T6 (format 14) takes it first (R123). -/
def und1011Allowed (low : BitVec 12) : Bool :=
  low.extractLsb' 8 4 != 0b1110#4 && low.extractLsb' 8 4 != 0b0000#4 && low.extractLsb' 9 2 != 0b10#2

/-- Well-formedness of an instruction: its fields are those of a word of its own table row. -/
def Instr.wf : Instr → Bool
  | .armUndMulSwap _ hi _ => undMulSwapAllowed hi
  /- format 16 has the codes 0 to 13 only (R515) -/
  | .thumbBCond c _ => c != .al && c != .nv
  | .thumbUnd1011 low => und1011Allowed low
  | .armBx .. | .armBkpt .. | .armMul .. | .armMla ..
  | .armUmull .. | .armUmlal .. | .armSmull .. | .armSmlal ..
  | .armSwp .. | .armSwpb .. | .armUndLdrdStrd .. | .armLdrh ..
  | .armStrh .. | .armLdrsb .. | .armLdrsh .. | .armMrs ..
  | .armMrsBit25 .. | .armMsrReg .. | .armMsrImm .. | .armAnd ..
  | .armEor .. | .armSub .. | .armRsb .. | .armAdd ..
  | .armAdc .. | .armSbc .. | .armRsc .. | .armTst ..
  | .armTeq .. | .armCmp .. | .armCmn .. | .armOrr ..
  | .armMov .. | .armBic .. | .armMvn .. | .armUnd ..
  | .armLdrt .. | .armLdrbt .. | .armStrt .. | .armStrbt ..
  | .armLdr .. | .armStr .. | .armLdrb .. | .armStrb ..
  | .armLdm .. | .armStm .. | .armB .. | .armBl ..
  | .armLdc .. | .armStc .. | .armCdp .. | .armMrc ..
  | .armMcr .. | .armSwi .. | .thumbSwi .. | .thumbUndCond ..
  | .thumbBkpt .. | .thumbAddSpImm .. | .thumbAddSpNegImm .. | .thumbPush ..
  | .thumbPop .. | .thumbAddReg .. | .thumbSubReg .. | .thumbAddImm3 ..
  | .thumbSubImm3 .. | .thumbLslImm .. | .thumbLsrImm .. | .thumbAsrImm ..
  | .thumbMovImm .. | .thumbCmpImm .. | .thumbAddImm8 .. | .thumbSubImm8 ..
  | .thumbAnd .. | .thumbEor .. | .thumbLslReg .. | .thumbLsrReg ..
  | .thumbAsrReg .. | .thumbAdc .. | .thumbSbc .. | .thumbRorReg ..
  | .thumbTst .. | .thumbNeg .. | .thumbCmpReg .. | .thumbCmn ..
  | .thumbOrr .. | .thumbMul .. | .thumbBic .. | .thumbMvn ..
  | .thumbUndBlxReg .. | .thumbAddHigh .. | .thumbCmpHigh .. | .thumbMovHigh ..
  | .thumbBx .. | .thumbLdrPc .. | .thumbStrhReg .. | .thumbLdsbReg ..
  | .thumbLdrhReg .. | .thumbLdshReg .. | .thumbStrReg .. | .thumbStrbReg ..
  | .thumbLdrReg .. | .thumbLdrbReg .. | .thumbStrImm .. | .thumbLdrImm ..
  | .thumbStrbImm .. | .thumbLdrbImm .. | .thumbStrhImm .. | .thumbLdrhImm ..
  | .thumbStrSp .. | .thumbLdrSp .. | .thumbAddPc .. | .thumbAddSp ..
  | .thumbStmia .. | .thumbLdmia .. | .thumbB .. | .thumbUndBlxSuffix ..
  | .thumbBlFirst .. | .thumbBlSecond .. => true

end Sys2Proof
end

