-- ==== Sys2Proof/Decode.lean ====
section
/-! DEFINITION. The decoder (`30_encoding.md`): classification by the two priority lists (R121 to R123), then the
fields of the format (R124 to R137, R500 to R519), total on every word and halfword; and after it the encoder,
written from the same layouts. Fields that decode ignores (R150) are encoded as the layouts show them (DESIGN
CHOICE, log 22). -/

namespace Sys2Proof

/-! ### Codes of the enumerated fields -/

/-- The condition of a 4-bit code (R162). -/
def Cond.ofCode (b : BitVec 4) : Cond :=
  match b.toNat with
  | 0 => .eq | 1 => .ne | 2 => .cs | 3 => .cc | 4 => .mi | 5 => .pl | 6 => .vs | 7 => .vc
  | 8 => .hi | 9 => .ls | 10 => .ge | 11 => .lt | 12 => .gt | 13 => .le | 14 => .al | _ => .nv

/-- The 4-bit code of a condition (R162). -/
def Cond.code : Cond → BitVec 4
  | .eq => 0 | .ne => 1 | .cs => 2 | .cc => 3 | .mi => 4 | .pl => 5 | .vs => 6 | .vc => 7
  | .hi => 8 | .ls => 9 | .ge => 10 | .lt => 11 | .gt => 12 | .le => 13 | .al => 14 | .nv => 15

/-- The shift kind of a 2-bit `type` field (R125). -/
def ShiftKind.ofCode (b : BitVec 2) : ShiftKind :=
  match b.toNat with
  | 0 => .lsl | 1 => .lsr | 2 => .asr | _ => .ror

/-- The 2-bit `type` field of a shift kind (R125). -/
def ShiftKind.code : ShiftKind → BitVec 2
  | .lsl => 0 | .lsr => 1 | .asr => 2 | .ror => 3

/-- A register number as a 4-bit field. -/
def Reg.bits (r : Reg) : BitVec 4 := BitVec.ofFin r

/-- A THUMB register number as a 3-bit field. -/
def LoReg.bits (r : LoReg) : BitVec 3 := BitVec.ofFin r

/-- The 4-bit register field whose lowest bit is bit `lo`. -/
def regAt {n : Nat} (w : BitVec n) (lo : Nat) : Reg := (w.extractLsb' lo 4).toFin

/-- The 3-bit register field whose lowest bit is bit `lo` (R146). -/
def loRegAt {n : Nat} (w : BitVec n) (lo : Nat) : LoReg := (w.extractLsb' lo 3).toFin

/-! ### Classification -/

/-- `Decode(list, w)` of R121: the tag of the first entry that matches, `none` when no entry does. -/
def classify {n : Nat} : List (BitVec n × BitVec n × Tag) → BitVec n → Option Tag
  | [], _ => none
  | (mask, pattern, tag) :: rest, w => if w &&& mask = pattern then some tag else classify rest w

/-- The ARM priority list A1 to A17 (R122). -/
def armList : List (Word × Word × Tag) :=
  [ (0x0FFFFFF0#32, 0x012FFF10#32, .aBX),
    (0x0FF000F0#32, 0x01200070#32, .aBKPT),
    (0x0FC000F0#32, 0x00000090#32, .aMUL),
    (0x0F8000F0#32, 0x00800090#32, .aMULL),
    (0x0FB00FF0#32, 0x01000090#32, .aSWP),
    (0x0E0000F0#32, 0x00000090#32, .aUND),
    (0x0E1000D0#32, 0x000000D0#32, .aUND),
    (0x0E000090#32, 0x00000090#32, .aHDT),
    (0x0C000000#32, 0x00000000#32, .aDP),
    (0x0E000010#32, 0x06000010#32, .aUND),
    (0x0C000000#32, 0x04000000#32, .aSDT),
    (0x0E000000#32, 0x08000000#32, .aBDT),
    (0x0E000000#32, 0x0A000000#32, .aB),
    (0x0E000000#32, 0x0C000000#32, .aCDT),
    (0x0F000010#32, 0x0E000000#32, .aCDO),
    (0x0F000010#32, 0x0E000010#32, .aCRT),
    (0x0F000000#32, 0x0F000000#32, .aSWI) ]

/-- The THUMB priority list T1 to T23 (R123). -/
def thumbList : List (Half × Half × Tag) :=
  [ (0xFF00#16, 0xDF00#16, .tF17),
    (0xFF00#16, 0xDE00#16, .tUND),
    (0xF000#16, 0xD000#16, .tF16),
    (0xFF00#16, 0xBE00#16, .tBKPT),
    (0xFF00#16, 0xB000#16, .tF13),
    (0xF600#16, 0xB400#16, .tF14),
    (0xF800#16, 0x1800#16, .tF2),
    (0xE000#16, 0x0000#16, .tF1),
    (0xE000#16, 0x2000#16, .tF3),
    (0xFC00#16, 0x4000#16, .tF4),
    (0xFF80#16, 0x4780#16, .tUBLX),
    (0xFC00#16, 0x4400#16, .tF5),
    (0xF800#16, 0x4800#16, .tF6),
    (0xF200#16, 0x5200#16, .tF8),
    (0xF200#16, 0x5000#16, .tF7),
    (0xE000#16, 0x6000#16, .tF9),
    (0xF000#16, 0x8000#16, .tF10),
    (0xF000#16, 0x9000#16, .tF11),
    (0xF000#16, 0xA000#16, .tF12),
    (0xF000#16, 0xC000#16, .tF15),
    (0xF800#16, 0xE000#16, .tF18),
    (0xF800#16, 0xE800#16, .tUBLX),
    (0xF000#16, 0xF000#16, .tF19) ]

/-- The tag of an ARM word (R121). -/
def armTag (w : Word) : Tag := (classify armList w).getD .aUND

/-- The tag of a THUMB halfword (R121). -/
def thumbTag (w : Half) : Tag := (classify thumbList w).getD .tUND

/-! ### ARM formats -/

/-- The second operand of data processing (R125). -/
def decodeOperand2 (w : Word) : Operand2 :=
  if w.getLsbD 25 then .imm (w.extractLsb' 8 4) (w.extractLsb' 0 8)
  else if w.getLsbD 4 then .regReg (regAt w 0) (ShiftKind.ofCode (w.extractLsb' 5 2)) (regAt w 8)
  else .regImm (regAt w 0) (ShiftKind.ofCode (w.extractLsb' 5 2)) (w.extractLsb' 7 5)

/-- The status word that bit P (bit 22) names (R126). -/
def decodeStatusWord (w : Word) : StatusWord := if w.getLsbD 22 then .spsr else .cpsr

/-- The status transfers of R126: bits 25 and 21 select, R207 takes the words with bit 25 = 1, bit 21 = 0. -/
def decodeStatusTransfer (c : Cond) (w : Word) : Instr :=
  if w.getLsbD 21 then
    if w.getLsbD 25 then .armMsrImm c (decodeStatusWord w) (w.extractLsb' 16 4) (w.extractLsb' 8 4) (w.extractLsb' 0 8)
    else .armMsrReg c (decodeStatusWord w) (w.extractLsb' 16 4) (regAt w 0)
  else if w.getLsbD 25 then .armMrsBit25 c (decodeStatusWord w) (regAt w 12)
  else .armMrs c (decodeStatusWord w) (regAt w 12)

/-- Data processing, and its sub-decode of the status transfers (R125, R126). -/
def decodeDataProcessing (c : Cond) (w : Word) : Instr :=
  let op2 := decodeOperand2 w
  let sf := w.getLsbD 20
  let rn := regAt w 16
  let rd := regAt w 12
  match (w.extractLsb' 21 4).toNat with
  | 0 => .armAnd c sf rd rn op2
  | 1 => .armEor c sf rd rn op2
  | 2 => .armSub c sf rd rn op2
  | 3 => .armRsb c sf rd rn op2
  | 4 => .armAdd c sf rd rn op2
  | 5 => .armAdc c sf rd rn op2
  | 6 => .armSbc c sf rd rn op2
  | 7 => .armRsc c sf rd rn op2
  | 8 => if sf then .armTst c rn op2 else decodeStatusTransfer c w
  | 9 => if sf then .armTeq c rn op2 else decodeStatusTransfer c w
  | 10 => if sf then .armCmp c rn op2 else decodeStatusTransfer c w
  | 11 => if sf then .armCmn c rn op2 else decodeStatusTransfer c w
  | 12 => .armOrr c sf rd rn op2
  | 13 => .armMov c sf rd op2
  | 14 => .armBic c sf rd rn op2
  | _ => .armMvn c sf rd op2

/-- Multiply (R127). -/
def decodeMultiply (c : Cond) (w : Word) : Instr :=
  if w.getLsbD 21 then .armMla c (w.getLsbD 20) (regAt w 16) (regAt w 12) (regAt w 8) (regAt w 0)
  else .armMul c (w.getLsbD 20) (regAt w 16) (regAt w 8) (regAt w 0)

/-- Multiply long (R128). -/
def decodeMultiplyLong (c : Cond) (w : Word) : Instr :=
  let sf := w.getLsbD 20
  let rdHi := regAt w 16
  let rdLo := regAt w 12
  let rs := regAt w 8
  let rm := regAt w 0
  if w.getLsbD 22 then
    if w.getLsbD 21 then .armSmlal c sf rdHi rdLo rs rm else .armSmull c sf rdHi rdLo rs rm
  else
    if w.getLsbD 21 then .armUmlal c sf rdHi rdLo rs rm else .armUmull c sf rdHi rdLo rs rm

/-- Single swap (R129). -/
def decodeSwap (c : Cond) (w : Word) : Instr :=
  if w.getLsbD 22 then .armSwpb c (regAt w 16) (regAt w 12) (regAt w 0)
  else .armSwp c (regAt w 16) (regAt w 12) (regAt w 0)

/-- The indexing of a halfword transfer: W is ignored when P = 0 (R131, R150). -/
def decodeIndex (w : Word) : Index := if w.getLsbD 24 then .pre (w.getLsbD 21) else .post

/-- The offset of a halfword transfer (R131). -/
def decodeHalfOffset (w : Word) : HalfOffset :=
  if w.getLsbD 22 then .imm (w.extractLsb' 8 4 ++ w.extractLsb' 0 4) else .reg (regAt w 0)

/-- Halfword and signed transfer (R131). A store has SH = 01 here. -/
def decodeHalfTransfer (c : Cond) (w : Word) : Instr :=
  let ix := decodeIndex w
  let up := w.getLsbD 23
  let off := decodeHalfOffset w
  let rn := regAt w 16
  let rd := regAt w 12
  if w.getLsbD 20 then
    match (w.extractLsb' 5 2).toNat with
    | 1 => .armLdrh c ix up off rn rd
    | 2 => .armLdrsb c ix up off rn rd
    | _ => .armLdrsh c ix up off rn rd
  else .armStrh c ix up off rn rd

/-- The offset of a single data transfer (R132). -/
def decodeWordOffset (w : Word) : WordOffset :=
  if w.getLsbD 25 then .reg (regAt w 0) (ShiftKind.ofCode (w.extractLsb' 5 2)) (w.extractLsb' 7 5)
  else .imm (w.extractLsb' 0 12)

/-- Single data transfer (R132): P = 0 with W = 1 is the T variant. -/
def decodeSingleTransfer (c : Cond) (w : Word) : Instr :=
  let up := w.getLsbD 23
  let off := decodeWordOffset w
  let rn := regAt w 16
  let rd := regAt w 12
  if !w.getLsbD 24 && w.getLsbD 21 then
    if w.getLsbD 20 then
      if w.getLsbD 22 then .armLdrbt c up off rn rd else .armLdrt c up off rn rd
    else
      if w.getLsbD 22 then .armStrbt c up off rn rd else .armStrt c up off rn rd
  else
    let ix := decodeIndex w
    if w.getLsbD 20 then
      if w.getLsbD 22 then .armLdrb c ix up off rn rd else .armLdr c ix up off rn rd
    else
      if w.getLsbD 22 then .armStrb c ix up off rn rd else .armStr c ix up off rn rd

/-- The block addressing mode of bits P and U (R255). -/
def decodeBlockMode (w : Word) : BlockMode :=
  if w.getLsbD 23 then (if w.getLsbD 24 then .ib else .ia) else (if w.getLsbD 24 then .db else .da)

/-- Block data transfer (R133). -/
def decodeBlockTransfer (c : Cond) (w : Word) : Instr :=
  let mode := decodeBlockMode w
  let sbit := w.getLsbD 22
  let wb := w.getLsbD 21
  let rn := regAt w 16
  let list := w.extractLsb' 0 16
  if w.getLsbD 20 then .armLdm c mode sbit wb rn list else .armStm c mode sbit wb rn list

/-- Coprocessor data transfer (R135). -/
def decodeCoprocTransfer (c : Cond) (w : Word) : Instr :=
  let punw := w.extractLsb' 21 4
  if w.getLsbD 20 then
    .armLdc c punw (w.extractLsb' 16 4) (w.extractLsb' 12 4) (w.extractLsb' 8 4) (w.extractLsb' 0 8)
  else
    .armStc c punw (w.extractLsb' 16 4) (w.extractLsb' 12 4) (w.extractLsb' 8 4) (w.extractLsb' 0 8)

/-- Coprocessor register transfer (R135). -/
def decodeCoprocRegister (c : Cond) (w : Word) : Instr :=
  let opc1 := w.extractLsb' 21 3
  if w.getLsbD 20 then
    .armMrc c opc1 (w.extractLsb' 16 4) (w.extractLsb' 12 4) (w.extractLsb' 8 4) (w.extractLsb' 5 3) (w.extractLsb' 0 4)
  else
    .armMcr c opc1 (w.extractLsb' 16 4) (w.extractLsb' 12 4) (w.extractLsb' 8 4) (w.extractLsb' 5 3) (w.extractLsb' 0 4)

/-- The three undefined spaces: entries A10, A6 and A7 (R122, R137). -/
def decodeArmUndefined (c : Cond) (w : Word) : Instr :=
  if w.getLsbD 26 then .armUnd c (w.extractLsb' 5 20) (w.extractLsb' 0 4)
  else if w.getLsbD 6 then
    .armUndLdrdStrd c (w.extractLsb' 21 4) (w.extractLsb' 8 12) (w.getLsbD 5) (w.extractLsb' 0 4)
  else .armUndMulSwap c (w.extractLsb' 8 17) (w.extractLsb' 0 4)

/-- The instruction of an ARM word (R121, R122, R124). -/
def decodeArm (w : Word) : Instr :=
  let c := Cond.ofCode (w.extractLsb' 28 4)
  match armTag w with
  | .aBX => .armBx c (regAt w 0)
  | .aB => if w.getLsbD 24 then .armBl c (w.extractLsb' 0 24) else .armB c (w.extractLsb' 0 24)
  | .aDP => decodeDataProcessing c w
  | .aMUL => decodeMultiply c w
  | .aMULL => decodeMultiplyLong c w
  | .aSDT => decodeSingleTransfer c w
  | .aHDT => decodeHalfTransfer c w
  | .aBDT => decodeBlockTransfer c w
  | .aSWP => decodeSwap c w
  | .aSWI => .armSwi c (w.extractLsb' 0 24)
  | .aCDT => decodeCoprocTransfer c w
  | .aCDO =>
    .armCdp c (w.extractLsb' 20 4) (w.extractLsb' 16 4) (w.extractLsb' 12 4) (w.extractLsb' 8 4) (w.extractLsb' 5 3)
      (w.extractLsb' 0 4)
  | .aCRT => decodeCoprocRegister c w
  | .aBKPT => .armBkpt c (w.extractLsb' 8 12) (w.extractLsb' 0 4)
  | _ => decodeArmUndefined c w

/-! ### THUMB formats -/

/-- Format 1 (R500). -/
def decodeFormat1 (h : Half) : Instr :=
  let imm5 := h.extractLsb' 6 5
  let rs := loRegAt h 3
  let rd := loRegAt h 0
  match (h.extractLsb' 11 2).toNat with
  | 0 => .thumbLslImm imm5 rs rd
  | 1 => .thumbLsrImm imm5 rs rd
  | _ => .thumbAsrImm imm5 rs rd

/-- Format 2 (R501). -/
def decodeFormat2 (h : Half) : Instr :=
  let rs := loRegAt h 3
  let rd := loRegAt h 0
  match (h.extractLsb' 9 2).toNat with
  | 0 => .thumbAddReg (loRegAt h 6) rs rd
  | 1 => .thumbSubReg (loRegAt h 6) rs rd
  | 2 => .thumbAddImm3 (h.extractLsb' 6 3) rs rd
  | _ => .thumbSubImm3 (h.extractLsb' 6 3) rs rd

/-- Format 3 (R502). -/
def decodeFormat3 (h : Half) : Instr :=
  let rd := loRegAt h 8
  let imm8 := h.extractLsb' 0 8
  match (h.extractLsb' 11 2).toNat with
  | 0 => .thumbMovImm rd imm8
  | 1 => .thumbCmpImm rd imm8
  | 2 => .thumbAddImm8 rd imm8
  | _ => .thumbSubImm8 rd imm8

/-- Format 4 (R503). -/
def decodeFormat4 (h : Half) : Instr :=
  let rs := loRegAt h 3
  let rd := loRegAt h 0
  match (h.extractLsb' 6 4).toNat with
  | 0 => .thumbAnd rs rd
  | 1 => .thumbEor rs rd
  | 2 => .thumbLslReg rs rd
  | 3 => .thumbLsrReg rs rd
  | 4 => .thumbAsrReg rs rd
  | 5 => .thumbAdc rs rd
  | 6 => .thumbSbc rs rd
  | 7 => .thumbRorReg rs rd
  | 8 => .thumbTst rs rd
  | 9 => .thumbNeg rs rd
  | 10 => .thumbCmpReg rs rd
  | 11 => .thumbCmn rs rd
  | 12 => .thumbOrr rs rd
  | 13 => .thumbMul rs rd
  | 14 => .thumbBic rs rd
  | _ => .thumbMvn rs rd

/-- `H1 : bits 2:0` of format 5 (R146, R504). -/
def highRdAt (h : Half) : Reg := (h.extractLsb' 7 1 ++ h.extractLsb' 0 3).toFin

/-- Format 5 (R504). `H2 : bits 5:3` is the field of bits 6:3. -/
def decodeFormat5 (h : Half) : Instr :=
  let rs := regAt h 3
  let rd := highRdAt h
  match (h.extractLsb' 8 2).toNat with
  | 0 => .thumbAddHigh rs rd
  | 1 => .thumbCmpHigh rs rd
  | 2 => .thumbMovHigh rs rd
  | _ => .thumbBx rs

/-- Format 7 (R506): L and B. -/
def decodeFormat7 (h : Half) : Instr :=
  let ro := loRegAt h 6
  let rb := loRegAt h 3
  let rd := loRegAt h 0
  match (h.extractLsb' 10 2).toNat with
  | 0 => .thumbStrReg ro rb rd
  | 1 => .thumbStrbReg ro rb rd
  | 2 => .thumbLdrReg ro rb rd
  | _ => .thumbLdrbReg ro rb rd

/-- Format 8 (R507): H is bit 11, S is bit 10. -/
def decodeFormat8 (h : Half) : Instr :=
  let ro := loRegAt h 6
  let rb := loRegAt h 3
  let rd := loRegAt h 0
  match (h.extractLsb' 10 2).toNat with
  | 0 => .thumbStrhReg ro rb rd
  | 1 => .thumbLdsbReg ro rb rd
  | 2 => .thumbLdrhReg ro rb rd
  | _ => .thumbLdshReg ro rb rd

/-- Format 9 (R508): B is bit 12, L is bit 11. -/
def decodeFormat9 (h : Half) : Instr :=
  let imm5 := h.extractLsb' 6 5
  let rb := loRegAt h 3
  let rd := loRegAt h 0
  match (h.extractLsb' 11 2).toNat with
  | 0 => .thumbStrImm imm5 rb rd
  | 1 => .thumbLdrImm imm5 rb rd
  | 2 => .thumbStrbImm imm5 rb rd
  | _ => .thumbLdrbImm imm5 rb rd

/-- The instruction of a THUMB halfword (R121, R123). -/
def decodeThumb (h : Half) : Instr :=
  match thumbTag h with
  | .tF1 => decodeFormat1 h
  | .tF2 => decodeFormat2 h
  | .tF3 => decodeFormat3 h
  | .tF4 => decodeFormat4 h
  | .tF5 => decodeFormat5 h
  | .tF6 => .thumbLdrPc (loRegAt h 8) (h.extractLsb' 0 8)
  | .tF7 => decodeFormat7 h
  | .tF8 => decodeFormat8 h
  | .tF9 => decodeFormat9 h
  | .tF10 =>
    if h.getLsbD 11 then .thumbLdrhImm (h.extractLsb' 6 5) (loRegAt h 3) (loRegAt h 0)
    else .thumbStrhImm (h.extractLsb' 6 5) (loRegAt h 3) (loRegAt h 0)
  | .tF11 =>
    if h.getLsbD 11 then .thumbLdrSp (loRegAt h 8) (h.extractLsb' 0 8)
    else .thumbStrSp (loRegAt h 8) (h.extractLsb' 0 8)
  | .tF12 =>
    if h.getLsbD 11 then .thumbAddSp (loRegAt h 8) (h.extractLsb' 0 8)
    else .thumbAddPc (loRegAt h 8) (h.extractLsb' 0 8)
  | .tF13 =>
    if h.getLsbD 7 then .thumbAddSpNegImm (h.extractLsb' 0 7) else .thumbAddSpImm (h.extractLsb' 0 7)
  | .tF14 =>
    if h.getLsbD 11 then .thumbPop (h.getLsbD 8) (h.extractLsb' 0 8)
    else .thumbPush (h.getLsbD 8) (h.extractLsb' 0 8)
  | .tF15 =>
    if h.getLsbD 11 then .thumbLdmia (loRegAt h 8) (h.extractLsb' 0 8)
    else .thumbStmia (loRegAt h 8) (h.extractLsb' 0 8)
  | .tF16 => .thumbBCond (Cond.ofCode (h.extractLsb' 8 4)) (h.extractLsb' 0 8)
  | .tF17 => .thumbSwi (h.extractLsb' 0 8)
  | .tF18 => .thumbB (h.extractLsb' 0 11)
  | .tF19 =>
    if h.getLsbD 11 then .thumbBlSecond (h.extractLsb' 0 11) else .thumbBlFirst (h.extractLsb' 0 11)
  | .tBKPT => .thumbBkpt (h.extractLsb' 0 8)
  | .tUBLX => if h.getLsbD 15 then .thumbUndBlxSuffix (h.extractLsb' 0 11) else .thumbUndBlxReg (h.extractLsb' 0 7)
  | _ => if h.getLsbD 14 then .thumbUndCond (h.extractLsb' 0 8) else .thumbUnd1011 (h.extractLsb' 0 12)

/-! ### Bytes -/

/-- One instruction as it stands in memory: an ARM word or a THUMB halfword (R153). -/
inductive Code where
  | arm (w : Word)
  | thumb (h : Half)
  deriving DecidableEq, Repr

/-- The instruction of a code: every word and every halfword decodes (R121, R122, R123). -/
def decode : Code → Instr
  | .arm w => decodeArm w
  | .thumb h => decodeThumb h

/-- Why a byte string holds no instruction; the decoder itself refuses no word. -/
inductive DecodeRefusal where
  /-- Fewer bytes than one instruction of the state has. -/
  | tooShort
  deriving DecidableEq, Repr

/-- Reading one instruction from bytes, low byte first (R60, R153), in the state that T names; answers the
instruction and the rest of the bytes. -/
def decodeBytes (t : Bool) : List Byte → Except DecodeRefusal (Instr × List Byte)
  | b0 :: b1 :: rest =>
    if t then .ok (decodeThumb (b1 ++ b0), rest)
    else
      match rest with
      | b2 :: b3 :: rest' => .ok (decodeArm (b3 ++ b2 ++ b1 ++ b0), rest')
      | _ => .error .tooShort
  | _ => .error .tooShort

/-- The first `n` bytes of the number `w`, low byte first (R60). -/
def leBytes : Nat → Nat → List Byte
  | 0, _ => []
  | n + 1, w => BitVec.ofNat 8 w :: leBytes n (w / 256)

/-- The instruction the decoder reads from a table word: 32 bits are an ARM word, 16 bits a THUMB halfword. -/
def decodeTableWord (nbits w : Nat) : Option Instr :=
  if nbits = 32 ∨ nbits = 16 then
    match decodeBytes (nbits == 16) (leBytes (nbits / 8) w) with
    | .ok (i, _) => some i
    | .error _ => none
  else none

/-! ### The encoder -/

/-- One bit as a field. -/
def bitOf (b : Bool) : BitVec 1 := BitVec.ofBool b

/-- An ARM word: the condition and the other 28 bits (R124). -/
def armCode (c : Cond) (body : BitVec 28) : Code := .arm (c.code ++ body)

/-- The 12-bit operand field of data processing, bit 25 not included (R125). -/
def Operand2.bits : Operand2 → BitVec 12
  | .imm rot imm8 => rot ++ imm8
  | .regImm rm kind imm5 => imm5 ++ kind.code ++ 0#1 ++ Reg.bits rm
  | .regReg rm kind rs => Reg.bits rs ++ 0#1 ++ kind.code ++ 1#1 ++ Reg.bits rm

/-- Bit 25 of data processing (R125). -/
def Operand2.isImm : Operand2 → Bool
  | .imm .. => true
  | .regImm .. => false
  | .regReg .. => false

/-- A data-processing word (R125). -/
def encodeDp (c : Cond) (op : BitVec 4) (sf : Bool) (rn rd : BitVec 4) (op2 : Operand2) : Code :=
  armCode c (0b00#2 ++ bitOf op2.isImm ++ op ++ bitOf sf ++ rn ++ rd ++ op2.bits)

/-- Bit P of a status transfer (R126). -/
def StatusWord.bit : StatusWord → BitVec 1
  | .cpsr => 0#1
  | .spsr => 1#1

/-- A multiply word (R127). -/
def encodeMul (c : Cond) (a : BitVec 1) (sf : Bool) (rd : Reg) (rn : BitVec 4) (rs rm : Reg) : Code :=
  armCode c (0b000000#6 ++ a ++ bitOf sf ++ Reg.bits rd ++ rn ++ Reg.bits rs ++ 0b1001#4 ++ Reg.bits rm)

/-- A multiply-long word (R128); `ua` is bits 22 and 21. -/
def encodeMull (c : Cond) (ua : BitVec 2) (sf : Bool) (rdHi rdLo rs rm : Reg) : Code :=
  armCode c (0b00001#5 ++ ua ++ bitOf sf ++ Reg.bits rdHi ++ Reg.bits rdLo ++ Reg.bits rs ++ 0b1001#4 ++ Reg.bits rm)

/-- Bit P of a transfer (R131, R132). -/
def Index.pBit : Index → BitVec 1
  | .pre _ => 1#1
  | .post => 0#1

/-- Bit W of a transfer (R131, R132); 0 when post-indexed. -/
def Index.wBit : Index → BitVec 1
  | .pre w => bitOf w
  | .post => 0#1

/-- Bit 22 of a halfword transfer (R131). -/
def HalfOffset.iBit : HalfOffset → BitVec 1
  | .imm _ => 1#1
  | .reg _ => 0#1

/-- Bits 11:8 of a halfword transfer (R131). -/
def HalfOffset.hiBits : HalfOffset → BitVec 4
  | .imm off8 => off8.extractLsb' 4 4
  | .reg _ => 0#4

/-- Bits 3:0 of a halfword transfer (R131). -/
def HalfOffset.loBits : HalfOffset → BitVec 4
  | .imm off8 => off8.extractLsb' 0 4
  | .reg rm => Reg.bits rm

/-- A halfword transfer word (R131). -/
def encodeHalf (c : Cond) (ix : Index) (up : Bool) (off : HalfOffset) (l : BitVec 1) (sh : BitVec 2) (rn rd : Reg) :
    Code :=
  armCode c (0b000#3 ++ ix.pBit ++ bitOf up ++ off.iBit ++ ix.wBit ++ l ++ Reg.bits rn ++ Reg.bits rd ++ off.hiBits ++
    1#1 ++ sh ++ 1#1 ++ off.loBits)

/-- Bit 25 of a single data transfer (R132). -/
def WordOffset.iBit : WordOffset → BitVec 1
  | .imm _ => 0#1
  | .reg .. => 1#1

/-- Bits 11:0 of a single data transfer (R132). -/
def WordOffset.bits : WordOffset → BitVec 12
  | .imm off12 => off12
  | .reg rm kind imm5 => imm5 ++ kind.code ++ 0#1 ++ Reg.bits rm

/-- A single data transfer word (R132). -/
def encodeSingle (c : Cond) (p w : BitVec 1) (up : Bool) (off : WordOffset) (b l : BitVec 1) (rn rd : Reg) : Code :=
  armCode c (0b01#2 ++ off.iBit ++ p ++ bitOf up ++ b ++ w ++ l ++ Reg.bits rn ++ Reg.bits rd ++ off.bits)

/-- Bits P and U of a block transfer (R255). -/
def BlockMode.puBits : BlockMode → BitVec 2
  | .ia => 0b01#2
  | .ib => 0b11#2
  | .da => 0b00#2
  | .db => 0b10#2

/-- A block transfer word (R133). -/
def encodeBlock (c : Cond) (mode : BlockMode) (sbit w : Bool) (l : BitVec 1) (rn : Reg) (list : BitVec 16) : Code :=
  armCode c (0b100#3 ++ mode.puBits ++ bitOf sbit ++ bitOf w ++ l ++ Reg.bits rn ++ list)

/-- A format 4 halfword (R503). -/
def encodeFormat4 (op : BitVec 4) (rs rd : LoReg) : Code := .thumb (0b010000#6 ++ op ++ LoReg.bits rs ++ LoReg.bits rd)

/-- A format 5 halfword (R504). -/
def encodeFormat5 (op : BitVec 2) (rs : Reg) (rd : Reg) : Code :=
  .thumb (0b010001#6 ++ op ++ (Reg.bits rd).extractLsb' 3 1 ++ Reg.bits rs ++ (Reg.bits rd).extractLsb' 0 3)

/-- A format 7 or 8 halfword (R506, R507): bits 11:10 and bit 9. -/
def encodeFormat78 (op : BitVec 2) (b9 : BitVec 1) (ro rb rd : LoReg) : Code :=
  .thumb (0b0101#4 ++ op ++ b9 ++ LoReg.bits ro ++ LoReg.bits rb ++ LoReg.bits rd)

/-- The halfword of formats 1, 9 and 10: five high bits, a 5-bit immediate, two registers (R500, R508, R509). -/
def encodeImm5 (op : BitVec 5) (imm5 : BitVec 5) (rs rd : LoReg) : Code :=
  .thumb (op ++ imm5 ++ LoReg.bits rs ++ LoReg.bits rd)

/-- The halfword of formats 3, 6, 11, 12 and 15: five high bits, a register, eight bits (R502, R505, R510, R511,
R514). -/
def encodeImm8 (op : BitVec 5) (rd : LoReg) (imm8 : BitVec 8) : Code := .thumb (op ++ LoReg.bits rd ++ imm8)

/-- The code of a well-formed instruction. -/
def encode : Instr → Code
  | .armBx c rn => armCode c (0b000100101111111111110001#24 ++ Reg.bits rn)
  | .armBkpt c imm12 imm4 => armCode c (0b00010010#8 ++ imm12 ++ 0b0111#4 ++ imm4)
  | .armMul c sf rd rs rm => encodeMul c 0#1 sf rd 0#4 rs rm
  | .armMla c sf rd rn rs rm => encodeMul c 1#1 sf rd (Reg.bits rn) rs rm
  | .armUmull c sf rdHi rdLo rs rm => encodeMull c 0b00#2 sf rdHi rdLo rs rm
  | .armUmlal c sf rdHi rdLo rs rm => encodeMull c 0b01#2 sf rdHi rdLo rs rm
  | .armSmull c sf rdHi rdLo rs rm => encodeMull c 0b10#2 sf rdHi rdLo rs rm
  | .armSmlal c sf rdHi rdLo rs rm => encodeMull c 0b11#2 sf rdHi rdLo rs rm
  | .armSwp c rn rd rm => armCode c (0b00010000#8 ++ Reg.bits rn ++ Reg.bits rd ++ 0b00001001#8 ++ Reg.bits rm)
  | .armSwpb c rn rd rm => armCode c (0b00010100#8 ++ Reg.bits rn ++ Reg.bits rd ++ 0b00001001#8 ++ Reg.bits rm)
  | .armUndMulSwap c hi lo => armCode c (0b000#3 ++ hi ++ 0b1001#4 ++ lo)
  | .armUndLdrdStrd c puiw mid h lo => armCode c (0b000#3 ++ puiw ++ 0#1 ++ mid ++ 0b11#2 ++ bitOf h ++ 1#1 ++ lo)
  | .armLdrh c ix up off rn rd => encodeHalf c ix up off 1#1 0b01#2 rn rd
  | .armStrh c ix up off rn rd => encodeHalf c ix up off 0#1 0b01#2 rn rd
  | .armLdrsb c ix up off rn rd => encodeHalf c ix up off 1#1 0b10#2 rn rd
  | .armLdrsh c ix up off rn rd => encodeHalf c ix up off 1#1 0b11#2 rn rd
  | .armMrs c p rd => armCode c (0b00010#5 ++ p.bit ++ 0b001111#6 ++ Reg.bits rd ++ 0#12)
  | .armMrsBit25 c p rd => armCode c (0b00110#5 ++ p.bit ++ 0b001111#6 ++ Reg.bits rd ++ 0#12)
  | .armMsrReg c p fsxc rm => armCode c (0b00010#5 ++ p.bit ++ 0b10#2 ++ fsxc ++ 0b111100000000#12 ++ Reg.bits rm)
  | .armMsrImm c p fsxc rot imm8 => armCode c (0b00110#5 ++ p.bit ++ 0b10#2 ++ fsxc ++ 0b1111#4 ++ rot ++ imm8)
  | .armAnd c sf rd rn op2 => encodeDp c 0#4 sf (Reg.bits rn) (Reg.bits rd) op2
  | .armEor c sf rd rn op2 => encodeDp c 1#4 sf (Reg.bits rn) (Reg.bits rd) op2
  | .armSub c sf rd rn op2 => encodeDp c 2#4 sf (Reg.bits rn) (Reg.bits rd) op2
  | .armRsb c sf rd rn op2 => encodeDp c 3#4 sf (Reg.bits rn) (Reg.bits rd) op2
  | .armAdd c sf rd rn op2 => encodeDp c 4#4 sf (Reg.bits rn) (Reg.bits rd) op2
  | .armAdc c sf rd rn op2 => encodeDp c 5#4 sf (Reg.bits rn) (Reg.bits rd) op2
  | .armSbc c sf rd rn op2 => encodeDp c 6#4 sf (Reg.bits rn) (Reg.bits rd) op2
  | .armRsc c sf rd rn op2 => encodeDp c 7#4 sf (Reg.bits rn) (Reg.bits rd) op2
  | .armTst c rn op2 => encodeDp c 8#4 true (Reg.bits rn) 0#4 op2
  | .armTeq c rn op2 => encodeDp c 9#4 true (Reg.bits rn) 0#4 op2
  | .armCmp c rn op2 => encodeDp c 10#4 true (Reg.bits rn) 0#4 op2
  | .armCmn c rn op2 => encodeDp c 11#4 true (Reg.bits rn) 0#4 op2
  | .armOrr c sf rd rn op2 => encodeDp c 12#4 sf (Reg.bits rn) (Reg.bits rd) op2
  | .armMov c sf rd op2 => encodeDp c 13#4 sf 0#4 (Reg.bits rd) op2
  | .armBic c sf rd rn op2 => encodeDp c 14#4 sf (Reg.bits rn) (Reg.bits rd) op2
  | .armMvn c sf rd op2 => encodeDp c 15#4 sf 0#4 (Reg.bits rd) op2
  | .armUnd c hi lo => armCode c (0b011#3 ++ hi ++ 1#1 ++ lo)
  | .armLdrt c up off rn rd => encodeSingle c 0#1 1#1 up off 0#1 1#1 rn rd
  | .armLdrbt c up off rn rd => encodeSingle c 0#1 1#1 up off 1#1 1#1 rn rd
  | .armStrt c up off rn rd => encodeSingle c 0#1 1#1 up off 0#1 0#1 rn rd
  | .armStrbt c up off rn rd => encodeSingle c 0#1 1#1 up off 1#1 0#1 rn rd
  | .armLdr c ix up off rn rd => encodeSingle c ix.pBit ix.wBit up off 0#1 1#1 rn rd
  | .armStr c ix up off rn rd => encodeSingle c ix.pBit ix.wBit up off 0#1 0#1 rn rd
  | .armLdrb c ix up off rn rd => encodeSingle c ix.pBit ix.wBit up off 1#1 1#1 rn rd
  | .armStrb c ix up off rn rd => encodeSingle c ix.pBit ix.wBit up off 1#1 0#1 rn rd
  | .armLdm c mode sbit w rn list => encodeBlock c mode sbit w 1#1 rn list
  | .armStm c mode sbit w rn list => encodeBlock c mode sbit w 0#1 rn list
  | .armB c off24 => armCode c (0b1010#4 ++ off24)
  | .armBl c off24 => armCode c (0b1011#4 ++ off24)
  | .armLdc c punw rn crd cp off8 => armCode c (0b110#3 ++ punw ++ 1#1 ++ rn ++ crd ++ cp ++ off8)
  | .armStc c punw rn crd cp off8 => armCode c (0b110#3 ++ punw ++ 0#1 ++ rn ++ crd ++ cp ++ off8)
  | .armCdp c opc1 crn crd cp opc2 crm => armCode c (0b1110#4 ++ opc1 ++ crn ++ crd ++ cp ++ opc2 ++ 0#1 ++ crm)
  | .armMrc c opc1 crn rd cp opc2 crm => armCode c (0b1110#4 ++ opc1 ++ 1#1 ++ crn ++ rd ++ cp ++ opc2 ++ 1#1 ++ crm)
  | .armMcr c opc1 crn rd cp opc2 crm => armCode c (0b1110#4 ++ opc1 ++ 0#1 ++ crn ++ rd ++ cp ++ opc2 ++ 1#1 ++ crm)
  | .armSwi c comment => armCode c (0b1111#4 ++ comment)
  | .thumbSwi imm8 => .thumb (0b11011111#8 ++ imm8)
  | .thumbUndCond imm8 => .thumb (0b11011110#8 ++ imm8)
  | .thumbBCond c soff8 => .thumb (0b1101#4 ++ c.code ++ soff8)
  | .thumbBkpt imm8 => .thumb (0b10111110#8 ++ imm8)
  | .thumbAddSpImm imm7 => .thumb (0b101100000#9 ++ imm7)
  | .thumbAddSpNegImm imm7 => .thumb (0b101100001#9 ++ imm7)
  | .thumbPush r rlist => .thumb (0b1011010#7 ++ bitOf r ++ rlist)
  | .thumbPop r rlist => .thumb (0b1011110#7 ++ bitOf r ++ rlist)
  | .thumbUnd1011 low => .thumb (0b1011#4 ++ low)
  | .thumbAddReg rn rs rd => .thumb (0b0001100#7 ++ LoReg.bits rn ++ LoReg.bits rs ++ LoReg.bits rd)
  | .thumbSubReg rn rs rd => .thumb (0b0001101#7 ++ LoReg.bits rn ++ LoReg.bits rs ++ LoReg.bits rd)
  | .thumbAddImm3 imm3 rs rd => .thumb (0b0001110#7 ++ imm3 ++ LoReg.bits rs ++ LoReg.bits rd)
  | .thumbSubImm3 imm3 rs rd => .thumb (0b0001111#7 ++ imm3 ++ LoReg.bits rs ++ LoReg.bits rd)
  | .thumbLslImm imm5 rs rd => encodeImm5 0b00000#5 imm5 rs rd
  | .thumbLsrImm imm5 rs rd => encodeImm5 0b00001#5 imm5 rs rd
  | .thumbAsrImm imm5 rs rd => encodeImm5 0b00010#5 imm5 rs rd
  | .thumbMovImm rd imm8 => encodeImm8 0b00100#5 rd imm8
  | .thumbCmpImm rd imm8 => encodeImm8 0b00101#5 rd imm8
  | .thumbAddImm8 rd imm8 => encodeImm8 0b00110#5 rd imm8
  | .thumbSubImm8 rd imm8 => encodeImm8 0b00111#5 rd imm8
  | .thumbAnd rs rd => encodeFormat4 0#4 rs rd
  | .thumbEor rs rd => encodeFormat4 1#4 rs rd
  | .thumbLslReg rs rd => encodeFormat4 2#4 rs rd
  | .thumbLsrReg rs rd => encodeFormat4 3#4 rs rd
  | .thumbAsrReg rs rd => encodeFormat4 4#4 rs rd
  | .thumbAdc rs rd => encodeFormat4 5#4 rs rd
  | .thumbSbc rs rd => encodeFormat4 6#4 rs rd
  | .thumbRorReg rs rd => encodeFormat4 7#4 rs rd
  | .thumbTst rs rd => encodeFormat4 8#4 rs rd
  | .thumbNeg rs rd => encodeFormat4 9#4 rs rd
  | .thumbCmpReg rs rd => encodeFormat4 10#4 rs rd
  | .thumbCmn rs rd => encodeFormat4 11#4 rs rd
  | .thumbOrr rs rd => encodeFormat4 12#4 rs rd
  | .thumbMul rs rd => encodeFormat4 13#4 rs rd
  | .thumbBic rs rd => encodeFormat4 14#4 rs rd
  | .thumbMvn rs rd => encodeFormat4 15#4 rs rd
  | .thumbUndBlxReg low => .thumb (0b010001111#9 ++ low)
  | .thumbAddHigh rs rd => encodeFormat5 0b00#2 rs rd
  | .thumbCmpHigh rs rd => encodeFormat5 0b01#2 rs rd
  | .thumbMovHigh rs rd => encodeFormat5 0b10#2 rs rd
  | .thumbBx rs => .thumb (0b010001110#9 ++ Reg.bits rs ++ 0#3)
  | .thumbLdrPc rd imm8 => encodeImm8 0b01001#5 rd imm8
  | .thumbStrhReg ro rb rd => encodeFormat78 0b00#2 1#1 ro rb rd
  | .thumbLdsbReg ro rb rd => encodeFormat78 0b01#2 1#1 ro rb rd
  | .thumbLdrhReg ro rb rd => encodeFormat78 0b10#2 1#1 ro rb rd
  | .thumbLdshReg ro rb rd => encodeFormat78 0b11#2 1#1 ro rb rd
  | .thumbStrReg ro rb rd => encodeFormat78 0b00#2 0#1 ro rb rd
  | .thumbStrbReg ro rb rd => encodeFormat78 0b01#2 0#1 ro rb rd
  | .thumbLdrReg ro rb rd => encodeFormat78 0b10#2 0#1 ro rb rd
  | .thumbLdrbReg ro rb rd => encodeFormat78 0b11#2 0#1 ro rb rd
  | .thumbStrImm imm5 rb rd => encodeImm5 0b01100#5 imm5 rb rd
  | .thumbLdrImm imm5 rb rd => encodeImm5 0b01101#5 imm5 rb rd
  | .thumbStrbImm imm5 rb rd => encodeImm5 0b01110#5 imm5 rb rd
  | .thumbLdrbImm imm5 rb rd => encodeImm5 0b01111#5 imm5 rb rd
  | .thumbStrhImm imm5 rb rd => encodeImm5 0b10000#5 imm5 rb rd
  | .thumbLdrhImm imm5 rb rd => encodeImm5 0b10001#5 imm5 rb rd
  | .thumbStrSp rd imm8 => encodeImm8 0b10010#5 rd imm8
  | .thumbLdrSp rd imm8 => encodeImm8 0b10011#5 rd imm8
  | .thumbAddPc rd imm8 => encodeImm8 0b10100#5 rd imm8
  | .thumbAddSp rd imm8 => encodeImm8 0b10101#5 rd imm8
  | .thumbStmia rb rlist => encodeImm8 0b11000#5 rb rlist
  | .thumbLdmia rb rlist => encodeImm8 0b11001#5 rb rlist
  | .thumbB off11 => .thumb (0b11100#5 ++ off11)
  | .thumbUndBlxSuffix low => .thumb (0b11101#5 ++ low)
  | .thumbBlFirst off11 => .thumb (0b11110#5 ++ off11)
  | .thumbBlSecond off11 => .thumb (0b11111#5 ++ off11)

/-- The bytes of a code, low byte first (R60). -/
def Code.bytes : Code → List Byte
  | .arm w => leBytes 4 w.toNat
  | .thumb h => leBytes 2 h.toNat

end Sys2Proof
end

