-- ==== Sys2Proof/Machine/Dma.lean ====
section
/-! DEFINITION. The DMA engine (`60_exceptions.md` R462 to R469), present when `DMA_PRESENT`. -/

namespace Sys2Proof.Machine

/-- The lowest-numbered running channel (R467). -/
def runningChannel (s : State) : Option (Fin 4) := (List.finRange 4).find? fun x => (s.dma[x]).running

/-- A DMA channel is eligible to run (R160 step 2, R467). -/
def dmaEligible (s : State) : Bool := s.params.dmaPresent && (runningChannel s).isSome

/-- A latched pointer after one unit of `u` bytes (R467): 0 increment, 1 decrement, 2 fixed; 3 is an increment for
the destination and fixed for the source (R463). -/
def stepPointer (p : Word) (u : Nat) (step : Nat) (threeIncrements : Bool) : Word :=
  if step = 0 then p + BitVec.ofNat 32 u
  else if step = 1 then p - BitVec.ofNat 32 u
  else if step = 3 ∧ threeIncrements then p + BitVec.ofNat 32 u
  else p

/-- A channel after `Complete(x)` (R468). A repeating channel with a start timing keeps its enable, its count is latched
anew and destination step 3 goes back to the destination latched at the trigger (DEDUCED, log 17). -/
def DmaChannel.completed (x : Fin 4) (c : DmaChannel) : DmaChannel :=
  if c.repeats && c.timing != 0 then
    { c with running := false, cntLatch := c.count x, dstLatch := if c.dstStep = 3 then c.dstStart else c.dstLatch }
  else { c with running := false, cntH := c.cntH &&& 0x7FFF#16 }

/-- `Complete(x)` (R468): the interrupt if asked, then the channel. -/
def dmaComplete (x : Fin 4) (s : State) : State :=
  let c := s.dma[x]
  if c.irq then (raiseInterrupt (8 + x.val) s).withDma x (c.completed x) else s.withDma x (c.completed x)

/-- The unit of a channel (R463). -/
def dmaWidth (c : DmaChannel) : Width := if c.unit32 then .word else .half

/-- A DMA address: aligned to the unit (R467). -/
def dmaAlign (c : DmaChannel) (a : Word) : Word := if c.unit32 then alignWord a else alignHalf a

/-- A channel after one unit of `u` bytes moved (R467). -/
def dmaStep (u : Nat) (c : DmaChannel) : DmaChannel :=
  { c with
    srcLatch := stepPointer c.srcLatch u c.srcStep false
    dstLatch := stepPointer c.dstLatch u c.dstStep true
    cntLatch := c.cntLatch - 1 }

/-- The end of a unit: the latched copies move on, and the last unit completes the channel (R467). -/
def dmaAdvance (u : Nat) (x : Fin 4) (s : State) : State :=
  let s1 := s.withDma x (dmaStep u s.dma[x])
  if (s1.dma[x]).cntLatch = 0 then dmaComplete x s1 else s1

/-- One unit of channel `x` (R467): read, write, then the latched copies, in this order on the state as it stands, so
that a unit stored into the channel's own registers is seen by the updates after it (DEDUCED, log 18). -/
def dmaUnit (x : Fin 4) (s : State) : State :=
  let c := s.dma[x]
  let r := memRead (dmaWidth c) (dmaAlign c c.srcLatch) s
  dmaAdvance (dmaWidth c).size x (memWrite (dmaWidth c) (dmaAlign c c.dstLatch) r.1 r.2)

/-- `DmaTick()` (R467): one unit of the lowest-numbered running channel. -/
def dmaTick (s : State) : State :=
  match runningChannel s with
  | some x => dmaUnit x s
  | none => s

/-- A start event (R464 (b), (c)) for channel `x`: it acts on a channel that is enabled, not running and set to that
timing. -/
def dmaStart (timing : Nat) (x : Fin 4) (s : State) : State :=
  let c := s.dma[x]
  if c.enabled && !c.running && c.timing == timing then s.withDma x { c with running := true } else s

end Sys2Proof.Machine
end

