-- ==== Sys2Proof/Machine/Timers.lean ====
section
/-! DEFINITION. The timer bank (`60_exceptions.md` R450 to R455). -/

namespace Sys2Proof.Machine

/-- The overflow of channel `k`: the counter is loaded again, and the interrupt is raised if asked (R455). -/
def overflowTimer (k : Fin 4) (s : State) : State :=
  let t := s.timers[k]
  if t.irq then raiseInterrupt (3 + k.val) (s.withTimer k { t with counter := t.reload })
  else s.withTimer k { t with counter := t.reload }

/-- `Increment(k)` with the cascade (R455); the list is channel `k` and its successors. -/
def incrementFrom : List (Fin 4) → State → State
  | [], s => s
  | k :: rest, s =>
    let t := s.timers[k]
    if t.counter = 0xFFFF#16 then
      match rest with
      | [] => overflowTimer k s
      | next :: _ =>
        if ((overflowTimer k s).timers[next]).enabled && ((overflowTimer k s).timers[next]).chain then
          incrementFrom rest (overflowTimer k s)
        else overflowTimer k s
    else s.withTimer k { t with counter := t.counter + 1 }

/-- Channel `k` and its successors, ascending (R455). -/
def channelsFrom (k : Fin 4) : List (Fin 4) := (List.finRange 4).drop k.val

/-- One cycle of channel `k` (R454); `chain` is ignored on channel 0. -/
def tickChannel (k : Fin 4) (s : State) : State :=
  let t := s.timers[k]
  if t.enabled && (k == 0 || !t.chain) then
    if t.divisor ≤ t.sub + 1 then incrementFrom (channelsFrom k) (s.withTimer k { t with sub := 0 })
    else s.withTimer k { t with sub := t.sub + 1 }
  else s

/-- `TimerTick()` (R454). -/
def timerTick (s : State) : State := tickChannel 3 (tickChannel 2 (tickChannel 1 (tickChannel 0 s)))

/-- `TimerAdvance(n)` (R453). -/
def timerAdvance : Nat → State → State
  | 0, s => s
  | n + 1, s => timerAdvance n (timerTick s)

end Sys2Proof.Machine
end

