-- ==== Sys2Proof/Machine/Fetch.lean ====
section
/-! DEFINITION. Everything of a step but the instruction itself (`40_common_execute.md` R160): the checks before the
fetch, the fetch and decode, and the accounting after. Also where a first instruction is placed for `withFetchWord`. -/

namespace Sys2Proof.Machine

/-! ### After the instruction -/

/-- `StepCycles(tally)` (R180): the tally, or a free count of at least 1. -/
def stepCycles (s : State) : Nat :=
  match s.params.cycleModel with
  | .table => s.tally
  | .draw => 1 + Config.drawCycles s.drawCount

/-- The counter of drawn counts after a step (log 7). -/
def countDraw (s : State) : State :=
  match s.params.cycleModel with
  | .table => s
  | .draw => s.withDrawCount (s.drawCount + 1)

/-- Step 9 of R160: the count is returned (kept in `tally`), added to the total, and advances the timers. -/
def accountStep (s : State) : State :=
  let n := stepCycles s
  timerAdvance n ((((countDraw s).withTally n).withCyclesTotal (s.cyclesTotal + n)))

/-- The end of an instruction's step: a fatal decode failure skips the accounting and returns 0 (R160 step 7). -/
def finishStep (s : State) : State := if s.fatal.isSome then s.withTally 0 else accountStep s

/-! ### Before the instruction -/

/-- The interrupt test (R160 step 4, R421). -/
def irqTaken (s : State) : Bool := s.ime.getLsbD 0 && !s.irqOff && s.pending != 0

/-- An interrupt entry (R421, R185): the winner is recorded, one cycle beside the refill. -/
def takeIrq (s : State) : State := enterException .irq ((s.withLastIrq (irqWinner s)).charge 1)

/-- The fetch of step 5 of R160: the opcode, zero-extended, and the state with the access made. `pc` is
aligned in every state a run reaches; elsewhere it is read as it is (DESIGN CHOICE, log 26). -/
def fetch (s : State) : Word × State := memRead s.fetchWidth s.pc s

/-- The instruction of a fetched opcode (R121, R153). -/
def decodeFetched (thumb : Bool) (w : Word) : Instr := if thumb then decodeThumb (w.setWidth 16) else decodeArm w

/-- What a step comes to before any instruction runs. -/
inductive StepPhase where
  /-- The step is over: a fatal state, a DMA tick, a halt tick or an interrupt entry. -/
  | over (s : State)
  /-- The instruction fetched, and the state after the fetch. -/
  | run (i : Instr) (s : State)

/-- Steps 4 and 5 of R160 for a machine that is not halted. -/
def beginInstruction (s : State) : StepPhase :=
  if irqTaken s then .over (accountStep (takeIrq s))
  else
    let f := fetch s
    .run (decodeFetched s.thumb f.1) (f.2.withIr f.1)

/-- Steps 0 to 5 of R160, in the order fatal, DMA, halt, interrupt, fetch. -/
def beginStep (s : State) : StepPhase :=
  let s1 := s.withTally 0
  if s.fatal.isSome then .over s1
  else if dmaEligible s1 then .over (accountStep (dmaTick s1))
  else if s1.halted then
    if s1.pending = 0 then .over (accountStep (s1.withTally Config.haltTickCycles))
    else beginInstruction (s1.withHalted false)
  else beginInstruction s1

/-! ### Placing an instruction where the next step fetches it -/

/-- Storing the `n` low bytes of `w` in the memory that answers a fetch at `a`: an image or a work RAM; the
cartridge image grows to hold them. `none` where no memory of the core answers. -/
def placeCode (s : State) (a : Word) (n w : Nat) : Option State :=
  let bytes : Nat → Byte := fun i => BitVec.ofNat 8 (w / 256 ^ i)
  let at' : Nat → Word := fun i => a + BitVec.ofNat 32 i
  match device s.params a with
  | .bios => some { s with bios := s.bios.setBytes (fun i => a.toNat + i) bytes n }
  | .ewram => some { s with ewram := s.ewram.setBytes (fun i => ewramOffset (at' i)) bytes n }
  | .iwram => some { s with iwram := s.iwram.setBytes (fun i => iwramOffset (at' i)) bytes n }
  | .cart =>
    some { s with
      rom := s.rom.setBytes (fun i => cartOffset (at' i)) bytes n
      params := { s.params with romSize := max s.params.romSize (cartOffset a + n) } }
  | _ => none

/-- What keeps the next step from fetching is taken away: a fatal record, a halt, a running DMA channel, an interrupt
about to be taken; T is set to the encoding and `pc` is aligned to it (DESIGN CHOICE, log 21). -/
def readyToFetch (thumb : Bool) (s : State) : State :=
  let s1 : State :=
    { s with
      fatal := none
      halted := false
      dma := if s.params.dmaPresent then s.dma.map (fun c => { c with running := false }) else s.dma
      cpsr := putThumb s.cpsr thumb
      pc := alignPc thumb s.pc }
  if irqTaken s1 then { s1 with ime := 0 } else s1

end Sys2Proof.Machine
end

