-- ==== Sys2Proof/Machine/Step.lean ====
section
/-! DEFINITION. One step of the machine (`40_common_execute.md` R160), and the state whose next step runs a given
word. -/

namespace Sys2Proof.Machine

/-- `step()` (R160): what comes before the instruction, the instruction, the accounting. The count it returns is the
field `tally` of the state it answers. -/
def step (s : State) : Host.Outcome State Fault Refusal :=
  match beginStep s with
  | .over t => .next t
  | .run i t =>
    match exec i t with
    | .next u => .next (finishStep u)
    | .fault r => .fault r
    | .refused r => .refused r

/-- `s` with the instruction whose bits are `w` (16 bits: a THUMB halfword, else an ARM word) where the next step
fetches it: at `pc`, or at address 0 where no memory of the core answers at `pc` (DESIGN CHOICE,
log 21). -/
def State.withFetchWord (s : State) (nbits w : Nat) : State :=
  let thumb := nbits == 16
  let n := if thumb then 2 else 4
  let s1 := readyToFetch thumb s
  match placeCode s1 s1.pc n w with
  | some t => t
  | none => (placeCode { s1 with pc := 0 } 0 n w).getD s1

end Sys2Proof.Machine
end

