-- ==== Sys2Proof/Machine/HostCalls.lean ====
section
/-! DEFINITION. The calls into the core that are not `step()` (`00_scope.md` R6), which the host makes between steps,
and power-on (R72, R470). `step` itself makes none of them (DESIGN CHOICE, log 20). -/

namespace Sys2Proof.Machine

/-- `raise_interrupt(source)` (R424). -/
def hostRaise (source : Nat) (s : State) : State := raiseInterrupt source s

/-- The address of a host bus call: aligned down to its width (R66). -/
def hostAlign (w : Width) (a : Word) : Word :=
  match w with
  | .byte => a
  | .half => alignHalf a
  | .word => alignWord a

/-- `bus.read` (R115): the cost is added to no step. -/
def hostRead (w : Width) (a : Word) (s : State) : Word × State :=
  let r := memRead w (hostAlign w a) s
  (r.1, r.2.withTally s.tally)

/-- `bus.write` (R115). -/
def hostWrite (w : Width) (a v : Word) (s : State) : State :=
  (memWrite w (hostAlign w a) v s).withTally s.tally

/-- The two scanline events (R464). -/
inductive Scanline where
  | vblank | hblank
  deriving DecidableEq, Repr

/-- A start event for every channel, in channel order (R464). -/
def dmaStartAll (timing : Nat) (s : State) : State :=
  if s.params.dmaPresent then dmaStart timing 3 (dmaStart timing 2 (dmaStart timing 1 (dmaStart timing 0 s))) else s

/-- `on_scanline_event` (R464 (b)). -/
def hostScanline (e : Scanline) (s : State) : State :=
  match e with
  | .vblank => dmaStartAll 1 s
  | .hblank => dmaStartAll 2 s

/-- `dma_special(channel)` (R464 (c)). -/
def hostDmaSpecial (x : Fin 4) (s : State) : State := if s.params.dmaPresent then dmaStart 3 x s else s

/-- `reset()` (R470). -/
def hostReset (s : State) : State := resetMachine s

/-! ### Power-on -/

/-- The range a device registers, R74 (R72). -/
def coreRanges : List (DeviceId × Nat × Nat) :=
  [(.bios, 0x00000000, 0x00004000), (.ewram, 0x02000000, 0x03000000), (.iwram, 0x03000000, 0x04000000),
   (.io, 0x04000000, 0x04000400), (.cart, 0x08000000, 0x0E000000)]

/-- The registered ranges, the core's own first (R72). -/
def registeredRanges (devices : List Config.ExtDevice) : List (DeviceId × Nat × Nat) :=
  coreRanges ++ devices.mapIdx fun i d => (DeviceId.ext i, d.start, d.stop)

/-- The overlap events of one registration against the earlier ones (R72): one for each earlier device it overlaps, in
the order of their registration (DESIGN CHOICE, log 28). -/
def overlapsWith (later : DeviceId × Nat × Nat) (earlier : List (DeviceId × Nat × Nat)) : List DiagEvent :=
  (earlier.filter fun e => decide (max e.2.1 later.2.1 < min e.2.2 later.2.2)).map
    fun e => DiagEvent.regionOverlap e.1 later.1

/-- The overlap events of a whole registration (R72); `seen` is what is registered already. -/
def overlapEvents (seen : List (DeviceId × Nat × Nat)) : List (DeviceId × Nat × Nat) → List DiagEvent
  | [] => []
  | d :: rest => overlapsWith d seen ++ overlapEvents (seen ++ [d]) rest

/-- Power-on with given parameters and images (R72, R470, R479). -/
def powerOn (params : Config.Params) (bios rom : Memory) : State :=
  State.initial params bios rom (overlapEvents [] (registeredRanges params.extDevices))

end Sys2Proof.Machine
end

