-- ==== Sys2Proof/Safety.lean ====
section
/-! DEFINITION. What counts as a safe run: the invariant of the machine's states, runs with the host's calls between
steps, and the words the statements use for what an operation leaves alone. No step stops (`Fault` has no
constructor and no arm of `exec` refuses), so safety is a matter of the states a run goes through. -/

namespace Sys2Proof.Machine

/-! ### The invariant -/

/-- A memory in canonical form whose listed offsets are below `n`. -/
def Memory.ok (m : Memory) (n : Nat) : Bool := m.wf && m.below n

/-- A timer channel: only writable bits of the control cell are set (R45), the sub-counter is below the largest
divisor (R49). -/
def Timer.ok (t : Timer) : Bool := t.ctrl &&& 0x00C7#16 == t.ctrl && decide (t.sub < 1024)

/-- A DMA channel: only writable bits of CNT_H are set (R463), and a channel that is enabled or running has at least
one unit and at most 65536 units left (R464, R467). -/
def DmaChannel.ok (c : DmaChannel) : Bool :=
  c.cntH &&& 0xFFE0#16 == c.cntH && decide (c.cntLatch ≤ 0x10000) && (!(c.running || c.enabled) || decide (1 ≤ c.cntLatch))

/-- The tags of the illegal instructions (R267). -/
def illegalTag : Tag → Bool
  | .aUND | .aCDT | .aCDO | .aCRT | .aBKPT | .tUND | .tBKPT | .tUBLX => true
  | .aBX | .aB | .aDP | .aMUL | .aMULL | .aSDT | .aHDT | .aBDT | .aSWP | .aSWI
  | .tF1 | .tF2 | .tF3 | .tF4 | .tF5 | .tF6 | .tF7 | .tF8 | .tF9 | .tF10 | .tF11 | .tF12 | .tF13 | .tF14 | .tF15
  | .tF16 | .tF17 | .tF18 | .tF19 => false

/-- The memories are canonical and within their sizes (R46, R61). -/
structure State.MemoriesOk (s : State) : Prop where
  bios : s.bios.ok Config.biosSize = true
  ewram : s.ewram.ok Config.ewramSize = true
  iwram : s.iwram.ok Config.iwramSize = true
  rom : s.rom.ok s.params.romSize = true
  extMem : s.extMem.wf = true
  romSize : s.params.romSize ≤ Config.romMax

/-- The control registers have no bit set outside their write masks (R39 to R44). -/
structure State.RegistersOk (s : State) : Prop where
  ie : s.ie &&& 0x3FFF#16 = s.ie
  iflag : s.iflag &&& 0x3FFF#16 = s.iflag
  waitcnt : s.waitcnt &&& 0x5FFF#16 = s.waitcnt
  ime : s.ime &&& 1#32 = s.ime
  postflg : s.postflg &&& 1#8 = s.postflg
  timers : ∀ k : Fin 4, (s.timers[k]).ok = true
  dma : ∀ x : Fin 4, (s.dma[x]).ok = true

/-- The invariant of every state a run goes through. -/
structure State.Inv (s : State) : Prop where
  memories : s.MemoriesOk
  registers : s.RegistersOk
  /-- The mode field holds one of the seven codes (R31, R32). -/
  mode : validMode s.modeCode = true
  /-- `pc` is a multiple of the instruction size of the state T names (R25). -/
  pc : alignPc s.thumb s.pc = s.pc
  /-- Without the DMA engine its channels keep their reset values (R462). -/
  noDma : s.params.dmaPresent = false → s.dma = Vector.replicate 4 DmaChannel.initial
  /-- A fatal record exists only under `UND_POLICY = fatal` and names an illegal tag (R267). -/
  fatal : ∀ r, s.fatal = some r → s.params.undPolicy = .fatal ∧ illegalTag r.tag = true

/-! ### Runs -/

/-- What can happen to the machine: a step, or a call of the host between steps (R6). -/
inductive Event where
  | step
  | raise (source : Nat)
  | read (w : Width) (a : Word)
  | write (w : Width) (a v : Word)
  | scanline (e : Scanline)
  | dmaSpecial (x : Fin 4)
  | reset
  deriving DecidableEq, Repr

/-- The state after an event. -/
def Event.next (e : Event) (s : State) : State :=
  match e with
  | .step =>
    match Machine.step s with
    | .next t => t
    | .fault _ => s
    | .refused _ => s
  | .raise source => hostRaise source s
  | .read w a => (hostRead w a s).2
  | .write w a v => hostWrite w a v s
  | .scanline e => hostScanline e s
  | .dmaSpecial x => hostDmaSpecial x s
  | .reset => hostReset s

/-- The state after a sequence of events. -/
def runEvents : List Event → State → State
  | [], s => s
  | e :: rest, s => runEvents rest (e.next s)

/-- The next step fetches and runs an instruction: nothing of steps 1 to 4 of R160 ends it first. -/
def State.ready (s : State) : Bool := s.fatal.isNone && !dmaEligible s && !s.halted && !irqTaken s

/-! ### What an operation leaves alone -/

/-- The storage behind an address: addresses with the same place are mirrors of each other (R76, R77, R80). -/
inductive Place where
  | bios (offset : Nat)
  | ewram (offset : Nat)
  | iwram (offset : Nat)
  | cart (offset : Nat)
  | io (addr : Word)
  | ext (addr : Word)
  | unmapped (addr : Word)
  deriving DecidableEq, Repr

/-- The place of an address. -/
def place (p : Config.Params) (a : Word) : Place :=
  match device p a with
  | .bios => .bios a.toNat
  | .ewram => .ewram (ewramOffset a)
  | .iwram => .iwram (iwramOffset a)
  | .io => .io a
  | .cart => .cart (cartOffset a)
  | .ext _ => .ext a
  | .none => .unmapped a

/-- An address answered by storage of the core: a read of it has no effect but the accounting. -/
def isPlain (p : Config.Params) (a : Word) : Bool :=
  match device p a with
  | .bios | .ewram | .iwram | .cart => true
  | .io | .ext _ | .none => false

/-- An address of a foreign external device: what it answers is a free value of each access (log 6). -/
def isForeign (p : Config.Params) (a : Word) : Bool :=
  match device p a with
  | .ext d => d.kind == .foreign
  | .bios | .ewram | .iwram | .io | .cart | .none => false

/-- Every byte of memory reads as before, but for what a foreign device answers. -/
def memoryKept (s t : State) : Prop := ∀ b, isForeign s.params b = false → peekByte t b = peekByte s b

/-- Every byte of memory reads as before except the `n` bytes from `a` up and their mirrors, except, when one of
those bytes is an I/O byte, the I/O bytes (a store to a register cell may change what other cells read, as the enable
of a timer does, R452), and but for what a foreign device answers. -/
def memoryKeptExcept (s t : State) (a : Word) (n : Nat) : Prop :=
  ∀ b, isForeign s.params b = false →
    (∀ i, i < n → place s.params b ≠ place s.params (a + BitVec.ofNat 32 i)) →
    ((∃ i, i < n ∧ device s.params (a + BitVec.ofNat 32 i) = .io) → device s.params b ≠ .io) →
    peekByte t b = peekByte s b

/-- The general registers keep their values except at the listed places. -/
def registersKept (s t : State) (written : List (Fin 30)) : Prop :=
  ∀ j : Fin 30, j ∉ written → t.gpr[j] = s.gpr[j]

/-- The control registers, timers and DMA channels keep their values. -/
def devicesKept (s t : State) : Prop :=
  t.ie = s.ie ∧ t.iflag = s.iflag ∧ t.waitcnt = s.waitcnt ∧ t.ime = s.ime ∧ t.postflg = s.postflg ∧
    t.timers = s.timers ∧ t.dma = s.dma ∧ t.halted = s.halted

/-- The saved status words and their tags keep their values. -/
def savedKept (s t : State) : Prop := t.spsr = s.spsr ∧ t.spsrValid = s.spsrValid

/-! ### The results the rules give, in numbers -/

/-- The status word with N, Z, C and V as given and its other bits kept (R28). -/
def flagsWord (cpsr : Word) (n z c v : Bool) : Word :=
  cpsr &&& 0x0FFFFFFF#32 ||| (if n then 0x80000000#32 else 0#32) ||| (if z then 0x40000000#32 else 0#32) |||
    (if c then 0x20000000#32 else 0#32) ||| (if v then 0x10000000#32 else 0#32)

/-- A signed result that 32 bits do not hold. -/
def overflows (x : Int) : Bool := decide (x < -0x80000000) || decide (0x80000000 ≤ x)

/-- The status word after the sum of `a`, `b` and a carry in: N and Z from the sum, C the unsigned and V the signed
overflow (R170, R172). -/
def addStatus (cpsr a b : Word) (carry : Bool) : Word :=
  let r := a + b + BitVec.ofNat 32 carry.toNat
  flagsWord cpsr (decide (r.toInt < 0)) (decide (r.toNat = 0)) (decide (2 ^ 32 ≤ a.toNat + b.toNat + carry.toNat))
    (overflows (a.toInt + b.toInt + carry.toNat))

/-- The status word after the difference of `a` and `b` less a borrow: C says that no borrow was needed (R171,
R172). -/
def subStatus (cpsr a b : Word) (borrow : Bool) : Word :=
  let r := a - b - BitVec.ofNat 32 borrow.toNat
  flagsWord cpsr (decide (r.toInt < 0)) (decide (r.toNat = 0)) (decide (b.toNat + borrow.toNat ≤ a.toNat))
    (overflows (a.toInt - b.toInt - borrow.toNat))

/-- The status word after a logical operation: N and Z from the result, C as given, V kept (R172). -/
def bitStatus (cpsr r : Word) (c : Bool) : Word :=
  flagsWord cpsr (decide (r.toInt < 0)) (decide (r.toNat = 0)) c (cpsr.getLsbD 28)

/-- A status word as an exception handler begins with it: the mode code, T = 0, I = 1, F = 1 if asked, every other bit
kept (R402). -/
def handlerWord (cpsr : Word) (setF : Bool) (code : Word) : Word :=
  cpsr &&& 0xFFFFFF40#32 ||| 0x80#32 ||| (if setF then 0x40#32 else 0#32) ||| code

/-- The state after an operation of the ALU: one register or none written, the status word as given, `pc` moved past
an instruction of `size` bytes, internal cycles added; everything else kept. -/
def State.afterAlu (s : State) (dest : Option Reg) (r cpsr : Word) (size cycles : Nat) : State :=
  { s with
    gpr :=
      match dest with
      | some rd => s.gpr.set (gprSlot rd s.mode) r
      | none => s.gpr
    cpsr := cpsr
    pc := s.pc + BitVec.ofNat 32 size
    tally := s.tally + cycles }

/-- The state after `pc` is written with `t` (R175, R183): the low bit or the two low bits of `t` are dropped by the
state T names, the two fetches of the refill are charged, the prediction is the new `pc` if that is a cartridge
address. -/
def State.jumped (s : State) (t : Word) : State :=
  let size := if s.thumb then 2 else 4
  let a := BitVec.ofNat 32 (t.toNat / size * size)
  { s with
    pc := a
    tally := s.tally + (peekCost s s.fetchWidth a false + peekCost s s.fetchWidth (a + BitVec.ofNat 32 size) true)
    seqNext := if isCart a then some a else none }

/-- The state after the last effect of an instruction of `size` bytes that writes `v` to register `rd`: register 15
takes it as a jump; any other is written in the bank of the current mode and `pc` moves on (R22, R27, R175). -/
def State.ended (s : State) (size : Nat) (rd : Reg) (v : Word) : State :=
  if rd = 15 then s.jumped v
  else { s with gpr := s.gpr.set (gprSlot rd s.mode) v, pc := s.pc + BitVec.ofNat 32 size }

/-- The state after an exception entry (R402): the return address in r14 of the target mode's bank, the old status in
its saved word, the handler's status word, `pc` at the vector. -/
def State.entered (s : State) (link : Fin 30) (saved : Fin 5) (ret : Word) (setF : Bool) (code vector : Word) : State :=
  State.jumped
    { s with
      gpr := s.gpr.set link ret
      spsr := s.spsr.set saved s.cpsr
      spsrValid := s.spsrValid.set saved true
      cpsr := handlerWord s.cpsr setF code }
    vector

/-- The state with one event appended to the log, when a condition holds. -/
def State.noted (s : State) (b : Bool) (e : DiagEvent) : State := if b then { s with diag := s.diag ++ [e] } else s

/-- The state after the write-back of a base register, when there is one; to r15 there is an event and no write
(R238). -/
def State.based (s : State) (rn : Reg) (v : Word) (wb : Bool) : State :=
  if !wb then s
  else if rn = 15 then { s with diag := s.diag ++ [.unpredictable .writebackR15] }
  else { s with gpr := s.gpr.set (gprSlot rn s.mode) v }

/-- The state after a load: the base, one internal cycle, the event of an unpredictable destination, the destination
last (R230, R182). -/
def State.loaded (s : State) (rn : Reg) (x : Addressed) (rd : Reg) (v : Word) (toPc : Option Reason) : State :=
  let t := s.based rn x.offaddr x.wb
  let u : State := { t with tally := t.tally + 1 }
  match toPc with
  | some reason => (u.noted (rd = 15) (.unpredictable reason)).ended 4 rd v
  | none => u.ended 4 rd v

/-- The state after a store: the base, then `pc` past the instruction (R231). -/
def State.stored (s : State) (rn : Reg) (x : Addressed) : State :=
  let t := s.based rn x.offaddr x.wb
  { t with pc := s.pc + 4 }

/-! ### Memory as bytes -/

/-- The little-endian value of the bytes of a width from `a` up, read without effect (R60). -/
def peek (s : State) (w : Width) (a : Word) : Word :=
  match w with
  | .byte => (peekByte s a).setWidth 32
  | .half => (peekByte s (a + 1) ++ peekByte s a).setWidth 32
  | .word => peekByte s (a + 3) ++ peekByte s (a + 2) ++ peekByte s (a + 1) ++ peekByte s a

/-- A bus access of width `w` at `a` that storage of the core or register cells answer alone: no byte of it is
unmapped, beyond the cartridge image, or an external device's. -/
def plainAccess (s : State) (w : Width) (a : Word) : Bool :=
  decide (a.toNat % w.size = 0) &&
    match device s.params a with
    | .bios | .ewram | .iwram => true
    | .cart => decide (cartOffset a + w.size ≤ s.params.romSize)
    | .io => (List.range w.size).all fun i => (cellAt s.params (a + BitVec.ofNat 32 i).toNat).isSome
    | .ext _ | .none => false

/-- The state after one access is accounted (R100, R105): its cost, and the address it ends at if it was a cartridge
access. -/
def State.accessed (s : State) (w : Width) (a : Word) : State :=
  let c := peekCost s w a (isSequential s a)
  { s with
    tally := s.tally + c
    lastCost := c
    seqNext := if isCart a then some (a + BitVec.ofNat 32 w.size) else none }

/-- The state after word accesses at the listed addresses are accounted, one after the other. -/
def State.accessedWords (s : State) : List Word → State
  | [] => s
  | a :: rest => (s.accessed .word a).accessedWords rest

/-- The state after the bytes of one access at unmapped addresses are accounted and logged (R87, R89). -/
def State.missed (s : State) (w : Width) (a : Word) (event : Word → DiagEvent) : State :=
  { s with
    tally := s.tally + w.size
    lastCost := 1
    seqNext := none
    diag := s.diag ++ (List.range w.size).map fun i => event (a + BitVec.ofNat 32 i) }

/-- Where a form of an instruction stores: the first address and the number of bytes; `none` for a form that stores
nothing. -/
def storeRange (s : State) : Instr → Option (Word × Nat)
  | .armStr _ ix up off rn _ => some (alignWord (addrSingle s ix up off rn).addr, 4)
  | .armStrt _ up off rn _ => some (alignWord (addrSingle s .post up off rn).addr, 4)
  | .armStrb _ ix up off rn _ => some ((addrSingle s ix up off rn).addr, 1)
  | .armStrbt _ up off rn _ => some ((addrSingle s .post up off rn).addr, 1)
  | .armStrh _ ix up off rn _ => some (alignHalf (addrHalf s ix up off rn).addr, 2)
  | .armSwp _ rn _ _ => some (alignWord (s.armReg rn), 4)
  | .armSwpb _ rn _ _ => some (s.armReg rn, 1)
  | .armStm _ mode _ _ rn list =>
    let plan := blockPlan mode list (s.armReg rn)
    some (alignWord plan.start, 4 * plan.regs.length)
  | .thumbStrReg ro rb _ => some (alignWord (regOffsetAddr s ro rb), 4)
  | .thumbStrbReg ro rb _ => some (regOffsetAddr s ro rb, 1)
  | .thumbStrhReg ro rb _ => some (alignHalf (regOffsetAddr s ro rb), 2)
  | .thumbStrImm imm5 rb _ => some (alignWord (immOffsetAddr s imm5 2 rb), 4)
  | .thumbStrbImm imm5 rb _ => some (immOffsetAddr s imm5 0 rb, 1)
  | .thumbStrhImm imm5 rb _ => some (alignHalf (immOffsetAddr s imm5 1 rb), 2)
  | .thumbStrSp _ imm8 => some (alignWord (spOffsetAddr s imm8), 4)
  | .thumbPush r rlist =>
    let regs := thumbRegs rlist r linkReg
    some (alignWord (s.thumbReg stackReg - thumbSpan regs), if regs = [] then 4 else 4 * regs.length)
  | .thumbStmia rb rlist =>
    let regs := thumbRegs rlist false pcReg
    some (alignWord (s.loReg rb), if regs = [] then 4 else 4 * regs.length)
  | .armBx .. | .armBkpt .. | .armMul .. | .armMla .. | .armUmull ..
  | .armUmlal .. | .armSmull .. | .armSmlal .. | .armUndMulSwap .. | .armUndLdrdStrd ..
  | .armLdrh .. | .armLdrsb .. | .armLdrsh .. | .armMrs .. | .armMrsBit25 ..
  | .armMsrReg .. | .armMsrImm .. | .armAnd .. | .armEor .. | .armSub ..
  | .armRsb .. | .armAdd .. | .armAdc .. | .armSbc .. | .armRsc ..
  | .armTst .. | .armTeq .. | .armCmp .. | .armCmn .. | .armOrr ..
  | .armMov .. | .armBic .. | .armMvn .. | .armUnd .. | .armLdrt ..
  | .armLdrbt .. | .armLdr .. | .armLdrb .. | .armLdm .. | .armB ..
  | .armBl .. | .armLdc .. | .armStc .. | .armCdp .. | .armMrc ..
  | .armMcr .. | .armSwi .. | .thumbSwi .. | .thumbUndCond .. | .thumbBCond ..
  | .thumbBkpt .. | .thumbAddSpImm .. | .thumbAddSpNegImm .. | .thumbPop .. | .thumbUnd1011 ..
  | .thumbAddReg .. | .thumbSubReg .. | .thumbAddImm3 .. | .thumbSubImm3 .. | .thumbLslImm ..
  | .thumbLsrImm .. | .thumbAsrImm .. | .thumbMovImm .. | .thumbCmpImm .. | .thumbAddImm8 ..
  | .thumbSubImm8 .. | .thumbAnd .. | .thumbEor .. | .thumbLslReg .. | .thumbLsrReg ..
  | .thumbAsrReg .. | .thumbAdc .. | .thumbSbc .. | .thumbRorReg .. | .thumbTst ..
  | .thumbNeg .. | .thumbCmpReg .. | .thumbCmn .. | .thumbOrr .. | .thumbMul ..
  | .thumbBic .. | .thumbMvn .. | .thumbUndBlxReg .. | .thumbAddHigh .. | .thumbCmpHigh ..
  | .thumbMovHigh .. | .thumbBx .. | .thumbLdrPc .. | .thumbLdsbReg .. | .thumbLdrhReg ..
  | .thumbLdshReg .. | .thumbLdrReg .. | .thumbLdrbReg .. | .thumbLdrImm .. | .thumbLdrbImm ..
  | .thumbLdrhImm .. | .thumbLdrSp .. | .thumbAddPc .. | .thumbAddSp .. | .thumbLdmia ..
  | .thumbB .. | .thumbUndBlxSuffix .. | .thumbBlFirst .. | .thumbBlSecond .. => none

/-! ### Timers -/

/-- Timer channel `k`. -/
def timerOf (s : State) (k : Nat) : Timer := (s.timers[k]?).getD Timer.initial

/-- Channel `k` advances by one in the next cycle (R454, R455): when free-running, by its sub-counter reaching the
divisor; when chained, by the overflow of the channel before it. -/
def timerAdvances (s : State) : Nat → Bool
  | 0 => (timerOf s 0).enabled && decide ((timerOf s 0).divisor ≤ (timerOf s 0).sub + 1)
  | k + 1 =>
    (timerOf s (k + 1)).enabled &&
      if (timerOf s (k + 1)).chain then timerAdvances s k && (timerOf s k).counter == 0xFFFF#16
      else decide ((timerOf s (k + 1)).divisor ≤ (timerOf s (k + 1)).sub + 1)

/-- Channel `k` overflows in the next cycle (R455). -/
def timerOverflows (s : State) (k : Nat) : Bool := timerAdvances s k && (timerOf s k).counter == 0xFFFF#16

end Sys2Proof.Machine
end

