-- ==== Sys2Proof/Certificates/Slice0/Obligations.lean ====
section
/-! DEFINITION. The statements about the model, for the provers; `OBLIGATIONS.json` lists them. -/

open Sys2Proof Sys2Proof.Machine

/-! ### Encoding -/

/-- Decoding an encoded well-formed instruction gives it back, for every instruction with every operand at every value
its encoding admits (R120 to R137, R500 to R519). -/
def Obligations.RoundTrip : Prop := ∀ i : Instr, i.wf = true → decode (encode i) = i

/-- Every word and every halfword decodes to a well-formed instruction of its own encoding, and the same holds of bytes
in memory order: they give the instruction back and leave the rest; too few bytes are refused by name. -/
def Obligations.DecoderIsTotal : Prop :=
  (∀ w : Word, (decodeArm w).wf = true ∧ ∃ v, encode (decodeArm w) = .arm v) ∧
  (∀ h : Half, (decodeThumb h).wf = true ∧ ∃ v, encode (decodeThumb h) = .thumb v) ∧
  (∀ (i : Instr) (rest : List Byte), i.wf = true →
    match encode i with
    | .arm _ => decodeBytes false ((encode i).bytes ++ rest) = .ok (i, rest)
    | .thumb _ => decodeBytes true ((encode i).bytes ++ rest) = .ok (i, rest)) ∧
  ∀ (t : Bool) (l : List Byte), l.length < (if t then 2 else 4) → decodeBytes t l = .error .tooShort

/-- Words of the spec's examples, one or more of every family, decode to the instruction they stand for. -/
def Obligations.DecodeWords : Prop :=
  decodeArm 0xE0810002 = .armAdd .al false 0 1 (.regImm 2 .lsl 0) ∧
  decodeArm 0xE25EF004 = .armSub .al true 15 14 (.imm 0 4) ∧
  decodeArm 0xE10F0000 = .armMrs .al .cpsr 0 ∧
  decodeArm 0xE121F000 = .armMsrReg .al .cpsr 1 0 ∧
  decodeArm 0xE0203291 = .armMla .al false 0 3 2 1 ∧
  decodeArm 0xE0E10392 = .armSmlal .al false 1 0 3 2 ∧
  decodeArm 0xE5210004 = .armStr .al (.pre true) false (.imm 4) 1 0 ∧
  decodeArm 0xE1D100B0 = .armLdrh .al (.pre false) true (.imm 0) 1 0 ∧
  decodeArm 0xE92D4001 = .armStm .al .db false true 13 0x4001 ∧
  decodeArm 0xE1020091 = .armSwp .al 2 0 1 ∧
  decodeArm 0xEB000002 = .armBl .al 2 ∧
  decodeArm 0xEF000000 = .armSwi .al 0 ∧
  decodeThumb 0x1888 = .thumbAddReg 2 1 0 ∧
  decodeThumb 0x41C8 = .thumbRorReg 1 0 ∧
  decodeThumb 0x4680 = .thumbMovHigh 0 8 ∧
  decodeThumb 0x5E88 = .thumbLdshReg 2 1 0 ∧
  decodeThumb 0xBD01 = .thumbPop true 1 ∧
  decodeThumb 0xD002 = .thumbBCond .eq 2

/-! ### Reset, invariant, runs -/

/-- What `reset()` leaves (R55, R471 to R473), and that power-on with the default parameters is the same state with an
empty log. -/
def Obligations.ResetState : Prop :=
  (∀ s : State,
    (∀ j : Fin 30, (hostReset s).gpr[j] = 0) ∧ (hostReset s).pc = 0x00000000 ∧ (hostReset s).cpsr = 0x000000D3 ∧
    (∀ m : Fin 5, (hostReset s).spsr[m] = 0 ∧ (hostReset s).spsrValid[m] = false) ∧
    (hostReset s).ie = 0 ∧ (hostReset s).iflag = 0 ∧ (hostReset s).ime = 0 ∧ (hostReset s).waitcnt = 0 ∧
    (hostReset s).postflg = 0 ∧
    (∀ k : Fin 4, (hostReset s).timers[k] = { reload := 0, counter := 0, sub := 0, ctrl := 0 }) ∧
    (hostReset s).halted = false ∧ (hostReset s).seqNext = none ∧ (hostReset s).lastCost = 0 ∧
    (hostReset s).cyclesTotal = 0 ∧ (hostReset s).fatal = none ∧ (hostReset s).lastIrq = none ∧
    (hostReset s).diag = s.diag ∧ (∀ a, (hostReset s).ewram.get a = 0 ∧ (hostReset s).iwram.get a = 0) ∧
    (∀ x : Fin 4, (hostReset s).dma[x] =
      { sad := 0, dad := 0, cntL := 0, cntH := 0, srcLatch := 0, dstLatch := 0, dstStart := 0, cntLatch := 0,
        running := false }) ∧
    (hostReset s).bios = s.bios ∧ (hostReset s).rom = s.rom ∧ (hostReset s).params = s.params) ∧
  hostReset State.reset = State.reset ∧ State.reset.diag = []

/-- The state after reset meets the invariant. -/
def Obligations.ResetInv : Prop := State.reset.Inv

/-- Every step keeps the invariant: canonical memories within their sizes, no register bit set outside its write mask,
one of the seven modes, an aligned `pc`, no DMA state without the engine, a fatal record only under the fatal policy. -/
def Obligations.StepKeepsInv : Prop := ∀ s t : State, s.Inv → step s = .next t → t.Inv

/-- Every sequence of steps and host calls keeps the invariant; and the one call that names a source of interrupts sets
that source's bit of IF and nothing else, is idempotent, and does nothing for a number that is no source (R424). -/
def Obligations.EventsKeepInv : Prop :=
  (∀ (es : List Event) (s : State), s.Inv → (runEvents es s).Inv) ∧
  ∀ (source : Nat) (s : State), ∃ f : Half,
    (∀ j : Nat, j < 16 → f.getLsbD j = (s.iflag.getLsbD j || decide (j = source ∧ source < 14))) ∧
    hostRaise source s = { s with iflag := f } ∧ hostRaise source (hostRaise source s) = hostRaise source s

/-- `exec` and `step` answer a next state, for every instruction and in every state. This is a property of the model's
form (log 9): a fatal decode failure, which halts the machine until reset (R51, R267), is a next state too, the one with
the record `fatal` set, from which `FatalStateStays` says that steps do nothing. -/
def Obligations.EveryStepAnswers : Prop :=
  (∀ (i : Instr) (s : State), ∃ t, exec i s = .next t) ∧ ∀ s : State, ∃ t, step s = .next t

/-- A step that nothing ends before the fetch runs the instruction that the value fetched at `pc` decodes to, and then
accounts for it (R160 steps 5 to 9); where storage of the core answers the fetch, that value is the bytes there, low
byte first (R60). -/
def Obligations.StepRunsDecodedInstruction : Prop :=
  (∀ (s : State) (i : Instr), s.ready = true →
    let f := memRead s.fetchWidth s.pc { s with tally := 0 }
    decodeFetched s.thumb f.1 = i →
    step s =
      match exec i { f.2 with ir := f.1 } with
      | .next u => .next (finishStep u)
      | .fault r => .fault r
      | .refused r => .refused r) ∧
  ∀ (s : State) (i : Instr), s.ready = true → plainAccess s s.fetchWidth s.pc = true →
    decodeFetched s.thumb (peek s s.fetchWidth s.pc) = i →
    step s =
      match exec i { State.accessed { s with tally := 0 } s.fetchWidth s.pc with ir := peek s s.fetchWidth s.pc } with
      | .next u => .next (finishStep u)
      | .fault r => .fault r
      | .refused r => .refused r

/-- After a fatal decode failure `step()` does nothing and returns 0; the record is none after reset (R51). -/
def Obligations.FatalStateStays : Prop :=
  (∀ s : State, s.fatal.isSome = true → step s = .next { s with tally := 0 }) ∧
  State.reset.fatal = none ∧ ∀ s : State, (hostReset s).fatal = none

/-- A halted step (R434, R435): with no enabled source pending it is one tick, which runs nothing and advances the
timers by the count; with one pending it is the step of the machine that is not halted. Under the cycle
table the count is 1; under drawn counts it is some number of at least 1, and the counter of draws goes on, which is the
form the model gives R180 (log 7). -/
def Obligations.HaltedStep : Prop :=
  ∀ s : State, s.fatal = none → dmaEligible s = false → s.halted = true →
    (s.ie &&& s.iflag &&& 0x3FFF#16 = 0 →
      (s.params.cycleModel = .table → step s = .next (timerTick { s with tally := 1, cyclesTotal := s.cyclesTotal + 1 })) ∧
      (s.params.cycleModel = .draw → ∃ n, 1 ≤ n ∧
        step s = .next (timerAdvance n
          { s with tally := n, cyclesTotal := s.cyclesTotal + n, drawCount := s.drawCount + 1 }))) ∧
    (s.ie &&& s.iflag &&& 0x3FFF#16 ≠ 0 → step s = step { s with halted := false })

/-- An interrupt (R421, R413): with the master enable set, I clear and an enabled source pending, the step is the entry
of the IRQ exception and nothing else: the least pending source is recorded, r14 of the IRQ bank takes `pc + 4`, and
under the cycle table the step costs 1 plus the refill of two boot ROM fetches (R185). -/
def Obligations.InterruptEntry : Prop :=
  ∀ s : State, s.fatal = none → dmaEligible s = false → s.ime.getLsbD 0 = true → s.cpsr.getLsbD 7 = false →
    s.ie &&& s.iflag &&& 0x3FFF#16 ≠ 0 →
    ∃ (i : Fin 14) (t : State),
      (s.ie.getLsbD i && s.iflag.getLsbD i) = true ∧
      (∀ j : Fin 14, j < i → (s.ie.getLsbD j && s.iflag.getLsbD j) = false) ∧
      step s = .next t ∧
      t = accountStep (State.entered { s with halted := false, tally := 1, lastIrq := some i }
        (gprSlot 14 .irq) 1 (s.pc + 4) false 0x12 0x00000018) ∧
      (s.params.cycleModel = .table → t.tally = 3 ∧ t.cyclesTotal = s.cyclesTotal + 3)

/-- A running DMA channel owns the step (R160 step 2, R467): the lowest-numbered one moves one unit, no instruction
runs; the bytes at the destination become the bytes at the source, the latched copies move on, and the last unit
completes the channel (R468; that destination step 3 goes back to the destination latched at the trigger is log 17).
Source bytes are the core's storage, destination bytes work RAM. -/
def Obligations.DmaMovesOneUnit : Prop :=
  ∀ (s : State) (x : Fin 4), s.Inv → s.fatal = none → s.params.dmaPresent = true → (s.dma[x]).running = true →
    (∀ y : Fin 4, y < x → (s.dma[y]).running = false) →
    let c := s.dma[x]
    let w : Width := if c.unit32 then .word else .half
    let u := w.size
    let src : Word := BitVec.ofNat 32 (c.srcLatch.toNat / u * u)
    let dst : Word := BitVec.ofNat 32 (c.dstLatch.toNat / u * u)
    plainAccess s w src = true → device s.params src ≠ .io →
    (device s.params dst = .ewram ∨ device s.params dst = .iwram) →
    ∃ m : State,
      step s = .next (accountStep m) ∧
      (∀ i, i < u → peekByte m (dst + BitVec.ofNat 32 i) = peekByte s (src + BitVec.ofNat 32 i)) ∧
      (∀ b, (∀ i, i < u → place s.params b ≠ place s.params (dst + BitVec.ofNat 32 i)) → device s.params b ≠ .io →
        peekByte m b = peekByte s b) ∧
      m.gpr = s.gpr ∧ m.pc = s.pc ∧ m.cpsr = s.cpsr ∧ savedKept s m ∧ m.halted = s.halted ∧ m.diag = s.diag ∧
      m.ie = s.ie ∧ m.ime = s.ime ∧ m.waitcnt = s.waitcnt ∧ m.postflg = s.postflg ∧ m.timers = s.timers ∧
      (∀ y : Fin 4, y ≠ x → m.dma[y] = s.dma[y]) ∧
      (let p : Word := match c.srcStep with
        | 0 => c.srcLatch + BitVec.ofNat 32 u
        | 1 => c.srcLatch - BitVec.ofNat 32 u
        | _ => c.srcLatch
       let q : Word := match c.dstStep with
        | 0 => c.dstLatch + BitVec.ofNat 32 u
        | 1 => c.dstLatch - BitVec.ofNat 32 u
        | 2 => c.dstLatch
        | _ => c.dstLatch + BitVec.ofNat 32 u
       (c.cntLatch ≠ 1 →
          m.dma[x] = { c with srcLatch := p, dstLatch := q, cntLatch := c.cntLatch - 1 } ∧ m.iflag = s.iflag) ∧
       (c.cntLatch = 1 →
          m.iflag = (if c.irq then s.iflag ||| 1#16 <<< (8 + x.val) else s.iflag) ∧
          m.dma[x] =
            (if c.repeats = true ∧ c.timing ≠ 0 then
              { c with srcLatch := p, dstLatch := if c.dstStep = 3 then c.dstStart else q, cntLatch := c.count x,
                       running := false }
             else { c with srcLatch := p, dstLatch := q, cntLatch := 0, running := false,
                           cntH := c.cntH &&& 0x7FFF#16 })))

/-- The triggers of a DMA channel (R464, R469): enabling it latches its registers (the destination also as the one a
reload goes back to, log 17) and, with immediate timing, starts it; a scanline event or a special trigger starts the enabled channels of that timing; a zero count is the maximum. -/
def Obligations.DmaTriggers : Prop :=
  (∀ (c : DmaChannel) (x : Fin 4),
    c.count x =
      if x = 3 then (if c.cntL.toNat = 0 then 65536 else c.cntL.toNat)
      else if c.cntL.toNat % 16384 = 0 then 16384 else c.cntL.toNat % 16384) ∧
  (∀ (s : State) (x : Fin 4) (v : Word), s.params.dmaPresent = true → (s.dma[x]).enabled = false →
    v.getLsbD 15 = true →
    memWrite .half (BitVec.ofNat 32 (0x040000BA + 12 * x.val)) v s =
      { s.accessed .half (BitVec.ofNat 32 (0x040000BA + 12 * x.val)) with
        dma := s.dma.set x
          { s.dma[x] with
            cntH := (s.dma[x]).cntH &&& 0x001F#16 ||| v.setWidth 16 &&& 0xFFE0#16
            srcLatch := (s.dma[x]).sad
            dstLatch := (s.dma[x]).dad
            dstStart := (s.dma[x]).dad
            cntLatch := (s.dma[x]).count x
            running := (s.dma[x]).running || (v.extractLsb' 12 2 == 0#2) } }) ∧
  ∀ (s : State) (y : Fin 4),
    let started (timing : Nat) : DmaChannel :=
      if s.params.dmaPresent = true ∧ (s.dma[y]).enabled = true ∧ (s.dma[y]).timing = timing then
        { s.dma[y] with running := true }
      else s.dma[y]
    (hostScanline .vblank s).dma[y] = started 1 ∧ (hostScanline .hblank s).dma[y] = started 2 ∧
    ∀ x : Fin 4, (hostDmaSpecial x s).dma[y] = if y = x then started 3 else s.dma[y]

/-- Each step adds the count it returns to the running total (R52). -/
def Obligations.CyclesAccounted : Prop :=
  ∀ s t : State, step s = .next t → t.cyclesTotal = s.cyclesTotal + t.tally

/-- No step and no host call changes the parameters or the two images (R54, R85). -/
def Obligations.ImagesKept : Prop :=
  ∀ (e : Event) (s : State), (e.next s).params = s.params ∧ (e.next s).bios = s.bios ∧ (e.next s).rom = s.rom

/-- The diagnostic log only grows, and reset does not clear it (R50). -/
def Obligations.LogOnlyGrows : Prop :=
  ∀ (e : Event) (s : State), (∃ l, (e.next s).diag = s.diag ++ l) ∧ (e = .reset → (e.next s).diag = s.diag)

/-- From User mode the only way out is an exception (R441), and no instruction there reaches a status bit but T and the top
byte (R32, R33): a step that stays in User mode keeps bits 23 to 6 of the status word; one that leaves it entered an
exception, with the old status saved and `pc` at the vector. -/
def Obligations.UserModeIsLeftByException : Prop :=
  ∀ s t : State, s.Inv → s.cpsr.extractLsb' 0 5 = 0b10000#5 → step s = .next t →
    (t.cpsr.extractLsb' 0 5 = 0b10000#5 → t.cpsr.extractLsb' 6 18 = s.cpsr.extractLsb' 6 18) ∧
    (t.cpsr.extractLsb' 0 5 ≠ 0b10000#5 →
      ∃ (m : Fin 5) (code vector : Word),
        ((m, code, vector) = (4, 0x1B, 0x00000004) ∨ (m, code, vector) = (2, 0x13, 0x00000008) ∨
          (m, code, vector) = (1, 0x12, 0x00000018)) ∧
        t.pc = vector ∧ t.cpsr = handlerWord s.cpsr false code ∧ t.spsr[m] = s.cpsr ∧ t.spsrValid[m] = true)

/-! ### Registers, shifter, operands -/

/-- The banks (R22): two register numbers name one storage exactly when they are equal and their modes select one bank;
a write is read back there and nowhere else; register 15 reads two instructions ahead (R26). -/
def Obligations.RegisterBanks : Prop :=
  (∀ (n k : Reg) (m q : Mode), n ≠ 15 → k ≠ 15 →
    (gprSlot n m = gprSlot k q ↔
      n = k ∧ (n.val ≤ 7 ∨ n.val ≤ 12 ∧ (m = .fiq ↔ q = .fiq) ∨
        12 < n.val ∧ (m = q ∨ (m = .usr ∨ m = .sys) ∧ (q = .usr ∨ q = .sys))))) ∧
  (∀ (s : State) (n k : Reg) (m q : Mode) (v : Word), n ≠ 15 → k ≠ 15 →
    (s.setBankReg n m v).bankReg k q = if gprSlot n m = gprSlot k q then v else s.bankReg k q) ∧
  ∀ (s : State) (n : Reg),
    s.armReg n = (if n = 15 then s.pc + 8 else s.gpr[gprSlot n s.mode]) ∧
    s.thumbReg n = (if n = 15 then s.pc + 4 else s.gpr[gprSlot n s.mode])

/-- The barrel shifter (R163) for every amount: the value as a product, a quotient or a rotation, the carry as the last
bit moved out, amount 0 leaving both. -/
def Obligations.ShifterMeaning : Prop :=
  ∀ (v : Word) (n : Nat) (cin : Bool), n < 256 →
    (shift .lsl v n cin).value.toNat = v.toNat * 2 ^ n % 2 ^ 32 ∧
    (shift .lsl v n cin).carry = (if n = 0 then cin else (v.toNat * 2 ^ n).testBit 32) ∧
    (shift .lsr v n cin).value.toNat = v.toNat / 2 ^ n ∧
    (shift .lsr v n cin).carry = (if n = 0 then cin else (v.toNat / 2 ^ (n - 1)).testBit 0) ∧
    (shift .asr v n cin).value.toInt = v.toInt / 2 ^ n ∧
    (shift .asr v n cin).carry = (if n = 0 then cin else decide (v.toInt / 2 ^ (n - 1) % 2 = 1)) ∧
    (shift .ror v n cin).value = v.rotateRight n ∧
    (shift .ror v n cin).carry = (if n = 0 then cin else (v.rotateRight n).getLsbD 31)

/-- An immediate shift field (R164, R165): LSR and ASR by 0 mean 32, ROR by 0 is the rotate through carry. -/
def Obligations.ImmediateShifts : Prop :=
  ∀ (v : Word) (imm5 : BitVec 5) (cin : Bool),
    shiftImm .lsl v imm5 cin = shift .lsl v imm5.toNat cin ∧
    shiftImm .lsr v imm5 cin = shift .lsr v (if imm5.toNat = 0 then 32 else imm5.toNat) cin ∧
    shiftImm .asr v imm5 cin = shift .asr v (if imm5.toNat = 0 then 32 else imm5.toNat) cin ∧
    (imm5.toNat ≠ 0 → shiftImm .ror v imm5 cin = shift .ror v imm5.toNat cin) ∧
    (imm5.toNat = 0 → (shiftImm .ror v imm5 cin).value.toNat = cin.toNat * 2 ^ 31 + v.toNat / 2 ∧
      (shiftImm .ror v imm5 cin).carry = decide (v.toNat % 2 = 1))

/-- The second operand of data processing in its three forms (R166, R167, R168): value, carry out, the internal cycle
of the register-shift form, and what r15 reads beside it. -/
def Obligations.SecondOperand : Prop :=
  ∀ s : State,
    (∀ (rot : BitVec 4) (imm8 : BitVec 8),
      (operand2 s (.imm rot imm8)).value = (imm8.setWidth 32 : Word).rotateRight (2 * rot.toNat) ∧
      (operand2 s (.imm rot imm8)).carry =
        (if rot.toNat = 0 then s.cpsr.getLsbD 29 else (operand2 s (.imm rot imm8)).value.getLsbD 31) ∧
      operand2Cycles (.imm rot imm8) = 0 ∧ ∀ n, firstOperand s n (.imm rot imm8) = s.armReg n) ∧
    (∀ (rm : Reg) (kind : ShiftKind) (imm5 : BitVec 5),
      operand2 s (.regImm rm kind imm5) = shiftImm kind (s.armReg rm) imm5 (s.cpsr.getLsbD 29) ∧
      operand2Cycles (.regImm rm kind imm5) = 0 ∧ ∀ n, firstOperand s n (.regImm rm kind imm5) = s.armReg n) ∧
    ∀ (rm : Reg) (kind : ShiftKind) (rs : Reg),
      let x (n : Reg) : Word := if n = 15 then s.pc + 12 else s.gpr[gprSlot n s.mode]
      operand2 s (.regReg rm kind rs) = shift kind (x rm) ((x rs).toNat % 256) (s.cpsr.getLsbD 29) ∧
      operand2Cycles (.regReg rm kind rs) = 1 ∧ ∀ n, firstOperand s n (.regReg rm kind rs) = x n

/-- The condition table (R162), and that an ARM instruction of any kind whose condition fails changes nothing but `pc`,
and the log for the reserved code (R161). -/
def Obligations.Conditions : Prop :=
  (∀ (s : State) (code : BitVec 4),
    let n := s.cpsr.getLsbD 31
    let z := s.cpsr.getLsbD 30
    let c := s.cpsr.getLsbD 29
    let v := s.cpsr.getLsbD 28
    condPassed s (Cond.ofCode code) =
      ([z, !z, c, !c, n, !n, v, !v, c && !z, !c || z, n == v, n != v, !z && (n == v), z || (n != v), true,
        false].getD code.toNat false)) ∧
  ∀ (i : Instr) (w : Word) (s : State), i.wf = true → encode i = .arm w →
    condPassed s (Cond.ofCode (w.extractLsb' 28 4)) = false →
    exec i s = .next
      { s with
        pc := s.pc + 4
        diag := s.diag ++ (if w.extractLsb' 28 4 = 0b1111#4 then [.reservedCondition s.pc s.ir] else []) }

/-! ### Status words and exceptions -/

/-- `WritePC` (R175) and the refill (R183). -/
def Obligations.ProgramCounterWrite : Prop := ∀ (t : Word) (s : State), writePc t s = s.jumped t

/-- `WriteCPSR` (R32), bit by bit: which bits are taken, which kept, and what an invalid mode leaves. -/
def Obligations.StatusWrite : Prop :=
  ∀ (new mask : Word) (fromMsr : Bool) (s : State), ∃ v : Word,
    (∀ j : Nat, j < 32 → v.getLsbD j =
      if fromMsr = true ∧ j = 5 then s.cpsr.getLsbD 5
      else if mask.getLsbD j = true ∧ (s.mode = .usr ∧ fromMsr = true → 24 ≤ j) then new.getLsbD j
      else s.cpsr.getLsbD j) ∧
    (v.extractLsb' 0 5 ∈ [0x10#5, 0x11#5, 0x12#5, 0x13#5, 0x17#5, 0x1B#5, 0x1F#5] →
      writeCpsr new mask fromMsr s = { s with cpsr := v }) ∧
    (v.extractLsb' 0 5 ∉ [0x10#5, 0x11#5, 0x12#5, 0x13#5, 0x17#5, 0x1B#5, 0x1F#5] →
      writeCpsr new mask fromMsr s =
        { s with cpsr := v.extractLsb' 5 27 ++ s.cpsr.extractLsb' 0 5
                 diag := s.diag ++ [.invalidModeWrite (v.extractLsb' 0 5)] })

/-- `RestoreCPSR` (R176): in User and System mode an event and nothing else; in the other modes a valid saved status
replaces the status word, a saved status with an invalid mode keeps the mode and is logged, the tag is cleared, and a
stale saved word is logged first. -/
def Obligations.StatusRestore : Prop :=
  ∀ s : State,
    ((s.mode = .usr ∨ s.mode = .sys) → restoreCpsr s = { s with diag := s.diag ++ [.spsrAbsent .restore] }) ∧
    ∀ m : Fin 5, s.mode = [Mode.fiq, .irq, .svc, .abt, .und].getD m .usr →
      let v := s.spsr[m]
      let stale : List DiagEvent := if s.spsrValid[m] then [] else [.staleSpsr s.mode]
      (v.extractLsb' 0 5 ∈ [0x10#5, 0x11#5, 0x12#5, 0x13#5, 0x17#5, 0x1B#5, 0x1F#5] →
        restoreCpsr s = { s with cpsr := v, spsrValid := s.spsrValid.set m false, diag := s.diag ++ stale }) ∧
      (v.extractLsb' 0 5 ∉ [0x10#5, 0x11#5, 0x12#5, 0x13#5, 0x17#5, 0x1B#5, 0x1F#5] →
        restoreCpsr s =
          { s with cpsr := v.extractLsb' 5 27 ++ s.cpsr.extractLsb' 0 5
                   spsrValid := s.spsrValid.set m false
                   diag := s.diag ++ stale ++ [.invalidModeWrite (v.extractLsb' 0 5)] })

/-- Taking an exception (R402) with the parameters of R403, for the six kinds that have an entry. -/
def Obligations.ExceptionEntry : Prop :=
  ∀ s : State,
    let ret (arm thumb : Word) : Word := s.pc + if s.cpsr.getLsbD 5 then thumb else arm
    enterException .undefined s = s.entered (gprSlot 14 .und) 4 (ret 4 2) false 0x1B 0x00000004 ∧
    enterException .swi s = s.entered (gprSlot 14 .svc) 2 (ret 4 2) false 0x13 0x00000008 ∧
    enterException .prefetchAbort s = s.entered (gprSlot 14 .abt) 3 (ret 4 4) false 0x17 0x0000000C ∧
    enterException .dataAbort s = s.entered (gprSlot 14 .abt) 3 (ret 8 8) false 0x17 0x00000010 ∧
    enterException .irq s = s.entered (gprSlot 14 .irq) 1 (ret 4 4) false 0x12 0x00000018 ∧
    enterException .fiq s = s.entered (gprSlot 14 .fiq) 0 (ret 4 4) true 0x11 0x0000001C

/-- SWI in both encodings (R264, R372): the entry of the software interrupt exception, whole. -/
def Obligations.SoftwareInterrupt : Prop :=
  (∀ (s : State) (c : Cond) (comment : BitVec 24), condPassed s c = true → s.cpsr.getLsbD 5 = false →
    exec (.armSwi c comment) s = .next (s.entered (gprSlot 14 .svc) 2 (s.pc + 4) false 0x13 0x00000008)) ∧
  ∀ (s : State) (imm8 : BitVec 8), s.cpsr.getLsbD 5 = true →
    exec (.thumbSwi imm8) s = .next (s.entered (gprSlot 14 .svc) 2 (s.pc + 2) false 0x13 0x00000008)

/-- SWI from User mode and `MOVS pc, lr` in the handler resume after the SWI with the status as it was and no User
register changed (R416), from either instruction state. -/
def Obligations.SoftwareInterruptRoundTrip : Prop :=
  ∀ s : State, s.cpsr.extractLsb' 0 5 = 0b10000#5 → alignPc s.thumb s.pc = s.pc →
    ∃ t u : State,
      exec (if s.cpsr.getLsbD 5 then .thumbSwi 0 else .armSwi .al 0) s = .next t ∧
      exec (.armMov .al true 15 (.regImm 14 .lsl 0)) t = .next u ∧
      u.cpsr = s.cpsr ∧ u.pc = s.pc + (if s.cpsr.getLsbD 5 then 2 else 4) ∧
      (∀ n : Reg, n ≠ 15 → u.gpr[gprSlot n .usr] = s.gpr[gprSlot n .usr]) ∧ u.diag = s.diag

/-- Every illegal instruction (R267), by policy: under `fatal` the record and nothing else, and the step that set it
returns 0 without accounting; under `vector` the entry of the Undefined exception. -/
def Obligations.IllegalInstructions : Prop :=
  let outcome (s : State) (tag : Tag) : State :=
    match s.params.undPolicy with
    | .fatal => { s with fatal := some { addr := s.pc, opcode := s.ir, tag := tag } }
    | .vector =>
      s.entered (gprSlot 14 .und) 4 (s.pc + if s.cpsr.getLsbD 5 then 2 else 4) false 0x1B 0x00000004
  (∀ (s : State) (c : Cond), condPassed s c = true →
    (∀ x y, exec (.armUnd c x y) s = .next (outcome s .aUND)) ∧
    (∀ x y, exec (.armUndMulSwap c x y) s = .next (outcome s .aUND)) ∧
    (∀ x y h z, exec (.armUndLdrdStrd c x y h z) s = .next (outcome s .aUND)) ∧
    (∀ x y, exec (.armBkpt c x y) s = .next (outcome s .aBKPT)) ∧
    (∀ x1 x2 x3 x4 x5 x6, exec (.armCdp c x1 x2 x3 x4 x5 x6) s = .next (outcome s .aCDO)) ∧
    (∀ x1 x2 x3 x4 x5, exec (.armLdc c x1 x2 x3 x4 x5) s = .next (outcome s .aCDT)) ∧
    (∀ x1 x2 x3 x4 x5, exec (.armStc c x1 x2 x3 x4 x5) s = .next (outcome s .aCDT)) ∧
    (∀ x1 x2 x3 x4 x5 x6, exec (.armMrc c x1 x2 x3 x4 x5 x6) s = .next (outcome s .aCRT)) ∧
    ∀ x1 x2 x3 x4 x5 x6, exec (.armMcr c x1 x2 x3 x4 x5 x6) s = .next (outcome s .aCRT)) ∧
  ∀ s : State,
    (∀ x, exec (.thumbUndCond x) s = .next (outcome s .tUND)) ∧
    (∀ x, exec (.thumbUnd1011 x) s = .next (outcome s .tUND)) ∧
    (∀ x, exec (.thumbBkpt x) s = .next (outcome s .tBKPT)) ∧
    (∀ x, exec (.thumbUndBlxReg x) s = .next (outcome s .tUBLX)) ∧
    (∀ x, exec (.thumbUndBlxSuffix x) s = .next (outcome s .tUBLX)) ∧
    (s.fatal.isSome = true → finishStep s = { s with tally := 0 })

/-! ### ARM data processing, status transfers, multiplies -/

/-- The arithmetic operations of data processing with a destination that is not r15, and the two comparisons (R193 to
R198, R201, R202): result, flags when S = 1, `pc`, the internal cycle; nothing else. -/
def Obligations.ArmArithmetic : Prop :=
  ∀ (s : State) (c : Cond) (sf : Bool) (rd rn : Reg) (op2 : Operand2), condPassed s c = true → rd ≠ 15 →
    let a := firstOperand s rn op2
    let b := (operand2 s op2).value
    let k := operand2Cycles op2
    let carry := s.cpsr.getLsbD 29
    let f (word : Word) : Word := if sf then word else s.cpsr
    exec (.armAdd c sf rd rn op2) s = .next (s.afterAlu (some rd) (a + b) (f (addStatus s.cpsr a b false)) 4 k) ∧
    exec (.armAdc c sf rd rn op2) s =
      .next (s.afterAlu (some rd) (a + b + BitVec.ofNat 32 carry.toNat) (f (addStatus s.cpsr a b carry)) 4 k) ∧
    exec (.armSub c sf rd rn op2) s = .next (s.afterAlu (some rd) (a - b) (f (subStatus s.cpsr a b false)) 4 k) ∧
    exec (.armSbc c sf rd rn op2) s =
      .next (s.afterAlu (some rd) (a - b - BitVec.ofNat 32 (!carry).toNat) (f (subStatus s.cpsr a b !carry)) 4 k) ∧
    exec (.armRsb c sf rd rn op2) s = .next (s.afterAlu (some rd) (b - a) (f (subStatus s.cpsr b a false)) 4 k) ∧
    exec (.armRsc c sf rd rn op2) s =
      .next (s.afterAlu (some rd) (b - a - BitVec.ofNat 32 (!carry).toNat) (f (subStatus s.cpsr b a !carry)) 4 k) ∧
    exec (.armCmp c rn op2) s = .next (s.afterAlu none 0 (subStatus s.cpsr a b false) 4 k) ∧
    exec (.armCmn c rn op2) s = .next (s.afterAlu none 0 (addStatus s.cpsr a b false) 4 k)

/-- The logical operations of data processing with a destination that is not r15, and the two tests (R191, R192, R199,
R200, R203 to R206): result, flags when S = 1 with C from the shifter and V kept, `pc`, the internal cycle; nothing
else. -/
def Obligations.ArmLogical : Prop :=
  ∀ (s : State) (c : Cond) (sf : Bool) (rd rn : Reg) (op2 : Operand2), condPassed s c = true → rd ≠ 15 →
    let a := firstOperand s rn op2
    let b := (operand2 s op2).value
    let k := operand2Cycles op2
    let sc := (operand2 s op2).carry
    let f (r : Word) : Word := if sf then bitStatus s.cpsr r sc else s.cpsr
    exec (.armAnd c sf rd rn op2) s = .next (s.afterAlu (some rd) (a &&& b) (f (a &&& b)) 4 k) ∧
    exec (.armEor c sf rd rn op2) s = .next (s.afterAlu (some rd) (a ^^^ b) (f (a ^^^ b)) 4 k) ∧
    exec (.armOrr c sf rd rn op2) s = .next (s.afterAlu (some rd) (a ||| b) (f (a ||| b)) 4 k) ∧
    exec (.armBic c sf rd rn op2) s = .next (s.afterAlu (some rd) (a &&& ~~~b) (f (a &&& ~~~b)) 4 k) ∧
    exec (.armMov c sf rd op2) s = .next (s.afterAlu (some rd) b (f b) 4 k) ∧
    exec (.armMvn c sf rd op2) s = .next (s.afterAlu (some rd) (~~~b) (f (~~~b)) 4 k) ∧
    exec (.armTst c rn op2) s = .next (s.afterAlu none 0 (bitStatus s.cpsr (a &&& b) sc) 4 k) ∧
    exec (.armTeq c rn op2) s = .next (s.afterAlu none 0 (bitStatus s.cpsr (a ^^^ b) sc) 4 k)

/-- Data processing into r15 (R190): with S = 0 the result is a jump; with S = 1 the status is restored first, the
return from an exception, and the operation's own flags are not written. -/
def Obligations.ArmDataProcessingToPc : Prop :=
  ∀ (s : State) (c : Cond) (sf : Bool) (rn : Reg) (op2 : Operand2), condPassed s c = true →
    let a := firstOperand s rn op2
    let b := (operand2 s op2).value
    let carry := s.cpsr.getLsbD 29
    let s1 : State := { s with tally := s.tally + operand2Cycles op2 }
    let goTo (r : Word) : State := (if sf then restoreCpsr s1 else s1).jumped r
    exec (.armAnd c sf 15 rn op2) s = .next (goTo (a &&& b)) ∧
    exec (.armEor c sf 15 rn op2) s = .next (goTo (a ^^^ b)) ∧
    exec (.armSub c sf 15 rn op2) s = .next (goTo (a - b)) ∧
    exec (.armRsb c sf 15 rn op2) s = .next (goTo (b - a)) ∧
    exec (.armAdd c sf 15 rn op2) s = .next (goTo (a + b)) ∧
    exec (.armAdc c sf 15 rn op2) s = .next (goTo (a + b + BitVec.ofNat 32 carry.toNat)) ∧
    exec (.armSbc c sf 15 rn op2) s = .next (goTo (a - b - BitVec.ofNat 32 (!carry).toNat)) ∧
    exec (.armRsc c sf 15 rn op2) s = .next (goTo (b - a - BitVec.ofNat 32 (!carry).toNat)) ∧
    exec (.armOrr c sf 15 rn op2) s = .next (goTo (a ||| b)) ∧
    exec (.armMov c sf 15 op2) s = .next (goTo b) ∧
    exec (.armBic c sf 15 rn op2) s = .next (goTo (a &&& ~~~b)) ∧
    exec (.armMvn c sf 15 op2) s = .next (goTo (~~~b))

/-- The status transfers (R207 to R209): MRS reads the status word or the saved word of the mode, MSR writes the bytes
its field mask names; the events of an absent and of a stale saved word, before the event of r15 (the order is log 16);
nothing else. An MSR with an empty field mask keeps the word and sets the tag, or logs the absent word (log 31). -/
def Obligations.ArmStatusTransfers : Prop :=
  ∀ (s : State) (c : Cond), condPassed s c = true →
    let none? : Bool := s.mode = .usr ∨ s.mode = .sys
    let m : Fin 5 := (s.mode.spsrIndex).getD 0
    (∀ rd : Reg,
      let t : State := s.noted (rd = 15) (.unpredictable .mrsToR15)
      let u : State := if none? then { s with diag := s.diag ++ [.spsrAbsent .read] }
        else s.noted (!s.spsrValid[m]) (.staleSpsr s.mode)
      let v : Word := if none? then s.cpsr else s.spsr[m]
      exec (.armMrs c .cpsr rd) s = .next (t.ended 4 rd s.cpsr) ∧
      exec (.armMrsBit25 c .cpsr rd) s = .next (t.ended 4 rd s.cpsr) ∧
      exec (.armMrs c .spsr rd) s = .next ((u.noted (rd = 15) (.unpredictable .mrsToR15)).ended 4 rd v) ∧
      exec (.armMrsBit25 c .spsr rd) s = .next ((u.noted (rd = 15) (.unpredictable .mrsToR15)).ended 4 rd v)) ∧
    ∀ (fsxc : BitVec 4),
      ∃ mask : Word, (∀ j, j < 32 → mask.getLsbD j = fsxc.getLsbD (j / 8)) ∧
        ∀ operand : Word,
          let toCpsr : State := writeCpsr operand mask true s
          let toSpsr : State :=
            if none? then { s with diag := s.diag ++ [.spsrAbsent .write] }
            else { s with spsr := s.spsr.set m (s.spsr[m] &&& ~~~mask ||| operand &&& mask)
                          spsrValid := s.spsrValid.set m true }
          (∀ rm : Reg, s.armReg rm = operand →
            exec (.armMsrReg c .cpsr fsxc rm) s = .next { toCpsr with pc := s.pc + 4 } ∧
            exec (.armMsrReg c .spsr fsxc rm) s = .next { toSpsr with pc := s.pc + 4 }) ∧
          ∀ (rot : BitVec 4) (imm8 : BitVec 8), (imm8.setWidth 32 : Word).rotateRight (2 * rot.toNat) = operand →
            exec (.armMsrImm c .cpsr fsxc rot imm8) s = .next { toCpsr with pc := s.pc + 4 } ∧
            exec (.armMsrImm c .spsr fsxc rot imm8) s = .next { toSpsr with pc := s.pc + 4 }

/-- `MulCycles` (R174) by the size of the multiplier: how many of its bytes are not sign or zero extension. -/
def Obligations.MultiplyCycles : Prop :=
  ∀ (rs : Word) (signedOk : Bool),
    let fits (n : Nat) : Prop := rs.toNat < 2 ^ n ∨ signedOk = true ∧ 2 ^ 32 - 2 ^ n ≤ rs.toNat
    (fits 8 → mulCycles rs signedOk = 1) ∧ (¬ fits 8 → fits 16 → mulCycles rs signedOk = 2) ∧
    (¬ fits 16 → fits 24 → mulCycles rs signedOk = 3) ∧ (¬ fits 24 → mulCycles rs signedOk = 4)

/-- MUL and MLA (R220, R221): the low word of the product and sum, N and Z when S = 1 with C and V kept, the events of
the unpredictable register uses (log 13) in the order of log 16, the cycles, register 15 as a destination a jump. -/
def Obligations.ArmMultiply : Prop :=
  ∀ (s : State) (c : Cond) (sf : Bool) (rd rn rs rm : Reg), condPassed s c = true →
    let product : Nat := (s.armReg rm).toNat * (s.armReg rs).toNat
    let after (r : Word) (pcUsed : Bool) (extra : Nat) : State :=
      let t := (s.noted (rd = rm) (.unpredictable .mulRdRm)).noted pcUsed (.unpredictable .mulR15)
      State.ended
        { t with
          tally := s.tally + (mulCycles (s.armReg rs) true + extra)
          cpsr := if sf then flagsWord s.cpsr (decide (r.toInt < 0)) (decide (r.toNat = 0)) (s.cpsr.getLsbD 29)
            (s.cpsr.getLsbD 28) else s.cpsr }
        4 rd r
    exec (.armMul c sf rd rs rm) s = .next (after (BitVec.ofNat 32 product) (rd = 15 ∨ rs = 15 ∨ rm = 15) 0) ∧
    exec (.armMla c sf rd rn rs rm) s =
      .next (after (BitVec.ofNat 32 (product + (s.armReg rn).toNat)) (rd = 15 ∨ rn = 15 ∨ rs = 15 ∨ rm = 15) 1)

/-- The long multiplies (R222 to R226): the signed or unsigned 64-bit product, the accumulation modulo 2^64, RdLo
written before RdHi (register 15 through a jump), N and Z of the 64-bit result when S = 1, the events (log 13) in the
order of log 16, the cycles. -/
def Obligations.ArmMultiplyLong : Prop :=
  ∀ (s : State) (c : Cond) (sf : Bool) (rdHi rdLo rs rm : Reg), condPassed s c = true →
    let u : Int := (s.armReg rm).toNat * (s.armReg rs).toNat
    let i : Int := (s.armReg rm).toInt * (s.armReg rs).toInt
    let acc : Int := (s.armReg rdHi).toNat * 2 ^ 32 + (s.armReg rdLo).toNat
    let put (t : State) (rd : Reg) (v : Word) : State :=
      if rd = 15 then t.jumped v else { t with gpr := t.gpr.set (gprSlot rd t.mode) v }
    let after (x : Int) (signed : Bool) (extra : Nat) : State :=
      let p : BitVec 64 := BitVec.ofInt 64 x
      let t := (s.noted (rdHi = rdLo ∨ rdHi = rm ∨ rdLo = rm) (.unpredictable .mullOverlap)).noted
        (rdHi = 15 ∨ rdLo = 15 ∨ rs = 15 ∨ rm = 15) (.unpredictable .mullR15)
      let v : State :=
        { t with
          tally := s.tally + (mulCycles (s.armReg rs) signed + extra)
          cpsr := if sf then flagsWord s.cpsr (decide (p.toInt < 0)) (decide (p.toNat = 0)) (s.cpsr.getLsbD 29)
            (s.cpsr.getLsbD 28) else s.cpsr }
      let y := put (put v rdLo (BitVec.ofNat 32 (p.toNat % 2 ^ 32))) rdHi (BitVec.ofNat 32 (p.toNat / 2 ^ 32))
      if rdHi = 15 ∨ rdLo = 15 then y else { y with pc := s.pc + 4 }
    exec (.armUmull c sf rdHi rdLo rs rm) s = .next (after u false 1) ∧
    exec (.armUmlal c sf rdHi rdLo rs rm) s = .next (after (u + acc) false 2) ∧
    exec (.armSmull c sf rdHi rdLo rs rm) s = .next (after i true 1) ∧
    exec (.armSmlal c sf rdHi rdLo rs rm) s = .next (after (i + acc) true 2)

/-! ### Memory -/

/-- The address of a single or halfword transfer (R238, R239) in every form. -/
def Obligations.TransferAddresses : Prop :=
  ∀ (s : State) (up : Bool) (rn : Reg),
    let base := s.armReg rn
    let moved (off : Word) : Word := if up then base + off else base - off
    (∀ (off12 : BitVec 12) (w : Bool),
      addrSingle s (.pre w) up (.imm off12) rn =
        ⟨moved (BitVec.ofNat 32 off12.toNat), moved (BitVec.ofNat 32 off12.toNat), w, false⟩ ∧
      addrSingle s .post up (.imm off12) rn = ⟨base, moved (BitVec.ofNat 32 off12.toNat), true, false⟩) ∧
    (∀ (rm : Reg) (kind : ShiftKind) (imm5 : BitVec 5) (w : Bool),
      let off := (shiftImm kind (s.armReg rm) imm5 (s.cpsr.getLsbD 29)).value
      addrSingle s (.pre w) up (.reg rm kind imm5) rn = ⟨moved off, moved off, w, rm = 15⟩ ∧
      addrSingle s .post up (.reg rm kind imm5) rn = ⟨base, moved off, true, rm = 15⟩) ∧
    (∀ (off8 : BitVec 8) (w : Bool),
      addrHalf s (.pre w) up (.imm off8) rn =
        ⟨moved (BitVec.ofNat 32 off8.toNat), moved (BitVec.ofNat 32 off8.toNat), w, false⟩ ∧
      addrHalf s .post up (.imm off8) rn = ⟨base, moved (BitVec.ofNat 32 off8.toNat), true, false⟩) ∧
    ∀ (rm : Reg) (w : Bool),
      addrHalf s (.pre w) up (.reg rm) rn = ⟨moved (s.armReg rm), moved (s.armReg rm), w, rm = 15⟩ ∧
      addrHalf s .post up (.reg rm) rn = ⟨base, moved (s.armReg rm), true, rm = 15⟩

/-- The plan of a block transfer (R252, R254, R255): the registers of the list in ascending order, four bytes each; an
empty list moves r15 alone over 0x40 bytes; where each mode begins and what the base becomes. -/
def Obligations.BlockTransferPlan : Prop :=
  ∀ (list : BitVec 16) (base : Word),
    (list = 0 → blockRegs list = [15] ∧ blockSpan list = 0x40) ∧
    (list ≠ 0 → (∀ r : Reg, r ∈ blockRegs list ↔ list.getLsbD r.val = true) ∧
      (blockRegs list).Pairwise (fun a b => a.val < b.val) ∧ (blockSpan list).toNat = 4 * (blockRegs list).length) ∧
    (∀ mode, (blockPlan mode list base).regs = blockRegs list) ∧
    (let span := blockSpan list
     ((blockPlan .ia list base).start = base ∧ (blockPlan .ia list base).final = base + span) ∧
     ((blockPlan .ib list base).start = base + 4 ∧ (blockPlan .ib list base).final = base + span) ∧
     ((blockPlan .da list base).start = base - span + 4 ∧ (blockPlan .da list base).final = base - span) ∧
     ((blockPlan .db list base).start = base - span ∧ (blockPlan .db list base).final = base - span))

/-- A read answered by storage of the core or by register cells gives the bytes there, low byte first, and changes the
accounting only (R60, R61, R86, R100). What it costs: the figures of R101 and R102, on the cartridge those of R103 with
the wait values WAITCNT selects for the window (R104), sequential by R105; an unmapped access one cycle a byte (R108).
A read that an external device supports costs the device's own figure for the address, width and kind (R71), for backup
storage that of R106, and PeekCost says the same (log 24); the count of foreign reads is the model's (log 6). -/
def Obligations.BusReads : Prop :=
  (∀ (s : State) (w : Width) (a : Word), plainAccess s w a = true → memRead w a s = (peek s w a, s.accessed w a)) ∧
  (∀ (s : State) (a : Word),
    isCart a = decide (0x08000000 ≤ a.toNat ∧ a.toNat < 0x0E000000) ∧
    isSequential s a = decide (s.seqNext = some a ∧ a.toNat % 0x20000 ≠ 0)) ∧
  ∀ (s : State) (w : Width) (a : Word) (seq : Bool),
    let wait (bit : Nat) : Nat := [4, 3, 2, 8].getD (s.waitcnt.toNat / 2 ^ bit % 4) 0
    let wait2 (bit slow : Nat) : Nat := if s.waitcnt.getLsbD bit then 1 else slow
    let window := a.toNat / 0x02000000
    let first := 1 + (if window = 4 then wait 2 else if window = 5 then wait 5 else wait 8)
    let second := 1 + (if window = 4 then wait2 4 2 else if window = 5 then wait2 7 4 else wait2 10 8)
    let figure : Config.CostFigure → Nat
      | .cycles n => n
      | .backup => 1 + wait 0
    (device s.params a = .bios → peekCost s w a seq = 1) ∧
    (device s.params a = .ewram → peekCost s w a seq = if w = .word then 6 else 3) ∧
    (device s.params a = .iwram → peekCost s w a seq = 1) ∧
    ((∀ i, i < w.size → device s.params (a + BitVec.ofNat 32 i) = .io) → peekCost s w a seq = 1) ∧
    (device s.params a = .cart →
      peekCost s w a seq = (if seq then second else first) + if w = .word then second else 0) ∧
    ((∀ i, i < w.size → device s.params (a + BitVec.ofNat 32 i) = .none) → peekCost s w a seq = w.size) ∧
    ∀ d : Config.ExtDevice, device s.params a = .ext d → extReads d w = true →
      let f := d.cost.figuresAt a.toNat
      let c := figure (match w with
        | .byte => f.read8
        | .half => f.read16
        | .word => f.read32)
      peekCost s w a seq = c ∧
      (memRead w a s).2 =
        { s with tally := s.tally + c, lastCost := c, seqNext := none
                 extCount := if d.kind = .foreign then s.extCount + 1 else s.extCount } ∧
      (d.kind = .storage → ∀ i, i < w.size → byteOf (memRead w a s).1 i = s.extMem.get (a + BitVec.ofNat 32 i).toNat)

/-- A write to work RAM stores the bytes it covers, which their mirrors show as well, and no other byte (R61, R76, R77,
R88); a write to the boot ROM or the cartridge is discarded (R75, R80). A write that an external device supports costs
the device's own figure for a write (R71); a storage device keeps the bytes, and that a foreign one changes nothing here
is log 6. -/
def Obligations.BusWrites : Prop :=
  ∀ (s : State) (w : Width) (a v : Word), s.MemoriesOk → a.toNat % w.size = 0 →
    ((device s.params a = .ewram ∨ device s.params a = .iwram) →
      memWrite w a v s =
        { s.accessed w a with ewram := (memWrite w a v s).ewram, iwram := (memWrite w a v s).iwram } ∧
      (∀ (b : Word) (i : Nat), i < w.size → place s.params b = place s.params (a + BitVec.ofNat 32 i) →
        (peekByte (memWrite w a v s) b).toNat = v.toNat / 256 ^ i % 256) ∧
      ∀ b : Word, (∀ i, i < w.size → place s.params b ≠ place s.params (a + BitVec.ofNat 32 i)) →
        peekByte (memWrite w a v s) b = peekByte s b) ∧
    ((device s.params a = .bios ∨ device s.params a = .cart) → memWrite w a v s = s.accessed w a) ∧
    ∀ d : Config.ExtDevice, device s.params a = .ext d → extWrites d w = true →
      let f := d.cost.figuresAt a.toNat
      let c := figureCycles s.waitcnt (match w with
        | .byte => f.write8
        | .half => f.write16
        | .word => f.write32)
      let t := memWrite w a v s
      t = { s with tally := s.tally + c, lastCost := c, seqNext := none, extMem := t.extMem } ∧
      (d.kind = .foreign → t.extMem = s.extMem) ∧
      (d.kind = .storage →
        (∀ i, i < w.size → (t.extMem.get (a.toNat + i)).toNat = v.toNat / 256 ^ i % 256) ∧
        ∀ b, b < a.toNat ∨ a.toNat + w.size ≤ b → t.extMem.get b = s.extMem.get b)

/-- An access whose bytes are all unmapped (R87, R89): a read gives the sentinel in every byte, a write changes nothing,
each byte costs one cycle and is logged in ascending order. A read of the cartridge gives the image's bytes below
`ROM_SIZE` and from there on the sentinel, each such byte logged, at the cartridge's cost (R80); that they are logged in
ascending order is log 23. -/
def Obligations.UnmappedAccess : Prop :=
  (∀ (s : State) (w : Width) (a : Word), (∀ i, i < w.size → device s.params (a + BitVec.ofNat 32 i) = .none) →
    (memRead w a s).2 = s.missed w a .unmappedRead ∧
    (∀ i, i < w.size → byteOf (memRead w a s).1 i = s.params.sentinel8) ∧
    (memRead w a s).1.toNat < 256 ^ w.size ∧
    ∀ v : Word, memWrite w a v s = s.missed w a .unmappedWrite) ∧
  ∀ (s : State) (w : Width) (a : Word), a.toNat % w.size = 0 → device s.params a = .cart →
    let offset (i : Nat) : Nat := (a.toNat + i) % 0x02000000
    (∀ i, i < w.size → byteOf (memRead w a s).1 i =
      if offset i < s.params.romSize then s.rom.get (offset i) else s.params.sentinel8) ∧
    (memRead w a s).1.toNat < 256 ^ w.size ∧
    (memRead w a s).2 =
      { s.accessed w a with
        diag := s.diag ++ ((List.range w.size).filter fun i => decide (s.params.romSize ≤ offset i)).map
          fun i => .unmappedRead (a + BitVec.ofNat 32 i) }

/-- Stores to the control registers (R39 to R45, R92, R93, R452): write masks, the write-one-to-clear of IF with its
byte lanes, the halt, the reload and the enable transition of a timer. -/
def Obligations.ControlRegisterWrites : Prop :=
  ∀ (s : State) (v : Word),
    memWrite .half 0x04000200 v s = { s.accessed .half 0x04000200 with
      ie := s.ie &&& 0xC000#16 ||| v.setWidth 16 &&& 0x3FFF#16 } ∧
    memWrite .half 0x04000202 v s = { s.accessed .half 0x04000202 with iflag := s.iflag &&& ~~~(v.setWidth 16) } ∧
    memWrite .byte 0x04000203 v s = { s.accessed .byte 0x04000203 with
      iflag := s.iflag &&& ~~~((v.setWidth 8).setWidth 16 <<< 8) } ∧
    memWrite .word 0x04000200 v s = { s.accessed .word 0x04000200 with
      ie := s.ie &&& 0xC000#16 ||| v.setWidth 16 &&& 0x3FFF#16
      iflag := s.iflag &&& ~~~(v.extractLsb' 16 16) } ∧
    memWrite .half 0x04000204 v s = { s.accessed .half 0x04000204 with
      waitcnt := s.waitcnt &&& 0xA000#16 ||| v.setWidth 16 &&& 0x5FFF#16 } ∧
    memWrite .word 0x04000208 v s = { s.accessed .word 0x04000208 with ime := s.ime &&& 0xFFFFFFFE#32 ||| v &&& 1#32 } ∧
    memWrite .byte 0x04000300 v s = { s.accessed .byte 0x04000300 with
      postflg := s.postflg &&& 0xFE#8 ||| v.setWidth 8 &&& 1#8 } ∧
    memWrite .byte 0x04000301 v s = { s.accessed .byte 0x04000301 with halted := true } ∧
    ∀ k : Fin 4,
      let lo : Word := BitVec.ofNat 32 (0x04000100 + 4 * k.val)
      let hi : Word := BitVec.ofNat 32 (0x04000102 + 4 * k.val)
      let t := s.timers[k]
      let ctrl : Half := t.ctrl &&& 0xFF38#16 ||| v.setWidth 16 &&& 0x00C7#16
      memWrite .half lo v s = { s.accessed .half lo with timers := s.timers.set k { t with reload := v.setWidth 16 } } ∧
      memWrite .half hi v s = { s.accessed .half hi with
        timers := s.timers.set k
          (if t.ctrl.getLsbD 7 = false ∧ v.getLsbD 7 = true then { t with ctrl := ctrl, counter := t.reload, sub := 0 }
           else { t with ctrl := ctrl }) }

/-- What any bus access leaves alone: a read everything but the accounting, the log and the count of foreign reads; a
write the registers, the status words, the images and the fields only the step itself writes. -/
def Obligations.BusFrame : Prop :=
  ∀ (s : State) (w : Width) (a v : Word),
    (let t := (memRead w a s).2
     t = { s with seqNext := t.seqNext, lastCost := t.lastCost, tally := t.tally, diag := t.diag,
                  extCount := t.extCount }) ∧
    let t := memWrite w a v s
    t = { s with ie := t.ie, iflag := t.iflag, waitcnt := t.waitcnt, ime := t.ime, postflg := t.postflg,
                 timers := t.timers, dma := t.dma, ewram := t.ewram, iwram := t.iwram, extMem := t.extMem,
                 halted := t.halted, seqNext := t.seqNext, lastCost := t.lastCost, tally := t.tally, diag := t.diag,
                 extCount := t.extCount }

/-- The values of the loads from any address (R62, R63, R64): word and unsigned halfword loads rotate the aligned value
by the misalignment, a signed halfword load from an odd address is a signed byte load. -/
def Obligations.LoadValues : Prop :=
  ∀ (a : Word) (s : State),
    let wordAt : Word := BitVec.ofNat 32 (a.toNat / 4 * 4)
    let halfAt : Word := BitVec.ofNat 32 (a.toNat / 2 * 2)
    loadWord a s = ((memRead .word wordAt s).1.rotateRight (8 * (a.toNat % 4)), (memRead .word wordAt s).2) ∧
    loadHalf a s = ((memRead .half halfAt s).1.rotateRight (8 * (a.toNat % 2)), (memRead .half halfAt s).2) ∧
    loadByte a s = memRead .byte a s ∧
    loadSignedByte a s =
      (BitVec.ofInt 32 ((memRead .byte a s).1.setWidth 8 : Byte).toInt, (memRead .byte a s).2) ∧
    (a.toNat % 2 = 1 → loadSignedHalf a s = loadSignedByte a s) ∧
    (a.toNat % 2 = 0 → loadSignedHalf a s =
      (BitVec.ofInt 32 ((memRead .half a s).1.setWidth 16 : Half).toInt, (memRead .half a s).2)) ∧
    ∀ v : Word, storeWord a v s = memWrite .word wordAt v s ∧ storeHalf a v s = memWrite .half halfAt v s ∧
      storeByte a v s = memWrite .byte a v s

/-- The ARM loads (R230, R232, R234, R235, R240, R242, R243) in every form: the access, the write-back, one internal
cycle, then the destination, so that a loaded base wins; register 15 as a destination is a jump (logs 12 and 16). -/
def Obligations.ArmLoads : Prop :=
  ∀ (s : State) (c : Cond) (up : Bool) (rn rd : Reg), condPassed s c = true →
    (∀ (ix : Index) (off : WordOffset),
      let x := addrSingle s ix up off rn
      let t := s.noted x.pcOffset (.unpredictable .offsetR15)
      let p := addrSingle s .post up off rn
      let q := s.noted p.pcOffset (.unpredictable .offsetR15)
      exec (.armLdr c ix up off rn rd) s =
        .next ((loadWord x.addr t).2.loaded rn x rd (loadWord x.addr t).1 none) ∧
      exec (.armLdrb c ix up off rn rd) s =
        .next ((loadByte x.addr t).2.loaded rn x rd (loadByte x.addr t).1 (some .ldrbToR15)) ∧
      exec (.armLdrt c up off rn rd) s = .next ((loadWord p.addr q).2.loaded rn p rd (loadWord p.addr q).1 none) ∧
      exec (.armLdrbt c up off rn rd) s =
        .next ((loadByte p.addr q).2.loaded rn p rd (loadByte p.addr q).1 (some .ldrbToR15))) ∧
    ∀ (ix : Index) (off : HalfOffset),
      let x := addrHalf s ix up off rn
      let t := s.noted x.pcOffset (.unpredictable .offsetR15)
      exec (.armLdrh c ix up off rn rd) s =
        .next ((loadHalf x.addr t).2.loaded rn x rd (loadHalf x.addr t).1 (some .ldrhToR15)) ∧
      exec (.armLdrsb c ix up off rn rd) s =
        .next ((loadSignedByte x.addr t).2.loaded rn x rd (loadSignedByte x.addr t).1 (some .ldrhToR15)) ∧
      exec (.armLdrsh c ix up off rn rd) s =
        .next ((loadSignedHalf x.addr t).2.loaded rn x rd (loadSignedHalf x.addr t).1 (some .ldrhToR15))

/-- The ARM stores (R231, R233, R236, R237, R241) in every form: the value read before any write-back, r15 as `A + 12`,
the access, the write-back, `pc`; no register but the base. The event of an r15 offset stands before those of the access,
the event of a write-back to r15 after them (log 16). -/
def Obligations.ArmStores : Prop :=
  ∀ (s : State) (c : Cond) (up : Bool) (rn rd : Reg), condPassed s c = true →
    let v : Word := if rd = 15 then s.pc + 12 else s.gpr[gprSlot rd s.mode]
    (∀ (ix : Index) (off : WordOffset),
      let x := addrSingle s ix up off rn
      let t := s.noted x.pcOffset (.unpredictable .offsetR15)
      let p := addrSingle s .post up off rn
      let q := s.noted p.pcOffset (.unpredictable .offsetR15)
      exec (.armStr c ix up off rn rd) s = .next ((storeWord x.addr v t).stored rn x) ∧
      exec (.armStrb c ix up off rn rd) s = .next ((storeByte x.addr v t).stored rn x) ∧
      exec (.armStrt c up off rn rd) s = .next ((storeWord p.addr v q).stored rn p) ∧
      exec (.armStrbt c up off rn rd) s = .next ((storeByte p.addr v q).stored rn p)) ∧
    ∀ (ix : Index) (off : HalfOffset),
      let x := addrHalf s ix up off rn
      let t := s.noted x.pcOffset (.unpredictable .offsetR15)
      exec (.armStrh c ix up off rn rd) s = .next ((storeHalf x.addr v t).stored rn x)

/-- SWP and SWPB (R256, R257): address and source are read first, then the load, the store to the same address, one
internal cycle, the destination. The event of r15 stands before those of the accesses (log 16). -/
def Obligations.ArmSwap : Prop :=
  ∀ (s : State) (c : Cond) (rn rd rm : Reg), condPassed s c = true →
    let t := s.noted (rn = 15 ∨ rd = 15 ∨ rm = 15) (.unpredictable .swpR15)
    let a := s.armReg rn
    let v := s.armReg rm
    let w := storeWord a v (loadWord a t).2
    let b := storeByte a v (loadByte a t).2
    exec (.armSwp c rn rd rm) s = .next (State.ended { w with tally := w.tally + 1 } 4 rd (loadWord a t).1) ∧
    exec (.armSwpb c rn rd rm) s = .next (State.ended { b with tally := b.tally + 1 } 4 rd (loadByte a t).1)

/-- LDM (R250, R252 to R254) from storage or register cells, in all four modes with and without `^` and `!`, an empty
list included: the loaded registers and their bank, the base, every other register; and the whole next state: the
events of r15 as base (log 14) and of a User-bank form with write-back (log 15) in this order (log 16), the cost of
every word access in turn, one internal cycle, then `pc`, with r15 in the list after the status restore of `^`. -/
def Obligations.ArmLoadMultiple : Prop :=
  ∀ (s : State) (c : Cond) (mode : BlockMode) (sbit w : Bool) (rn : Reg) (list : BitVec 16), condPassed s c = true →
    let plan := blockPlan mode list (s.armReg rn)
    let n := plan.regs.length
    let at' (k : Nat) : Word := BitVec.ofNat 32 ((plan.start + BitVec.ofNat 32 (4 * k)).toNat / 4 * 4)
    let user : Bool := sbit = true ∧ (15 : Reg) ∉ plan.regs
    let bank : Mode := if user then .usr else s.mode
    (∀ k, k < n → plainAccess s .word (at' k) = true) →
    ∃ g : Vector Word 30,
      (∀ (k : Nat) (r : Reg), plan.regs[k]? = some r → r ≠ 15 → g[gprSlot r bank] = peek s .word (at' k)) ∧
      (w = true → rn ≠ 15 → (∀ r ∈ plan.regs, r ≠ 15 → gprSlot r bank ≠ gprSlot rn s.mode) →
        g[gprSlot rn s.mode] = plan.final) ∧
      (∀ j : Fin 30, (∀ r ∈ plan.regs, r ≠ 15 → gprSlot r bank ≠ j) →
        (w = true → rn ≠ 15 → gprSlot rn s.mode ≠ j) → g[j] = s.gpr[j]) ∧
      exec (.armLdm c mode sbit w rn list) s = .next
        (let e := (s.noted (rn = 15) (.unpredictable .blockBaseR15)).noted (user && w)
          (.unpredictable .userBankWriteback)
         let a := e.accessedWords ((List.range n).map at')
         let t : State := { a with gpr := g, tally := a.tally + 1 }
         if (15 : Reg) ∈ plan.regs then
           (if sbit then restoreCpsr t else t).jumped (peek s .word (at' (n - 1)))
         else { t with pc := s.pc + 4 })

/-- STM (R251, R253, R254) to work RAM, in all four modes with and without `^` and `!`, an empty list included: the
words stored and every other byte kept; and the whole next state: the events of r15 as base (log 14) and of a User-bank
form with write-back (log 15) in this order (log 16), the cost of every word access in turn, the base, `pc`. -/
def Obligations.ArmStoreMultiple : Prop :=
  ∀ (s : State) (c : Cond) (mode : BlockMode) (sbit w : Bool) (rn : Reg) (list : BitVec 16), s.MemoriesOk →
    condPassed s c = true →
    let base := s.armReg rn
    let plan := blockPlan mode list base
    let n := plan.regs.length
    let at' (k : Nat) : Word := BitVec.ofNat 32 ((plan.start + BitVec.ofNat 32 (4 * k)).toNat / 4 * 4)
    let bank : Mode := if sbit then .usr else s.mode
    (∀ k, k < n → device s.params (at' k) = .ewram ∨ device s.params (at' k) = .iwram) →
    ∃ t : State, exec (.armStm c mode sbit w rn list) s = .next t ∧
      (∀ (k : Nat) (r : Reg), plan.regs[k]? = some r →
        peek t .word (at' k) =
          (if r = 15 then s.pc + 12
           else if r = rn then (if k ≠ 0 ∧ w = true then plan.final else base)
           else s.gpr[gprSlot r bank])) ∧
      memoryKeptExcept s t (at' 0) (4 * n) ∧
      t =
        (let e := (s.noted (rn = 15) (.unpredictable .blockBaseR15)).noted (sbit && w)
          (.unpredictable .userBankWriteback)
         { e.accessedWords ((List.range n).map at') with
           ewram := t.ewram
           iwram := t.iwram
           gpr := if w = true ∧ rn ≠ 15 then s.gpr.set (gprSlot rn s.mode) plan.final else s.gpr
           pc := s.pc + 4 })

/-- The forms that store nothing leave every byte of memory and every device register as it was, whatever they do. -/
def Obligations.NonStoringForms : Prop :=
  ∀ (i : Instr) (s t : State), storeRange s i = none → exec i s = .next t → memoryKept s t ∧ devicesKept s t

/-- A form that stores changes no byte outside the bytes it stores to and their mirrors; where none of those is a
register cell, no device register either. -/
def Obligations.StoringForms : Prop :=
  ∀ (i : Instr) (s t : State) (a : Word) (n : Nat), s.MemoriesOk → storeRange s i = some (a, n) → exec i s = .next t →
    memoryKeptExcept s t a n ∧
    ((∀ j, j < n → device s.params (a + BitVec.ofNat 32 j) ≠ .io) → devicesKept s t)

/-! ### Branches -/

/-- The branches of both encodings (R260 to R262, R323, R370, R373, R376, R377): targets, link, state exchange. -/
def Obligations.Branches : Prop :=
  (∀ (s : State) (c : Cond), condPassed s c = true →
    (∀ off24 : BitVec 24,
      let target : Word := s.pc + 8 + BitVec.ofInt 32 (4 * off24.toInt)
      exec (.armB c off24) s = .next (s.jumped target) ∧
      exec (.armBl c off24) s =
        .next (State.jumped { s with gpr := s.gpr.set (gprSlot 14 s.mode) (s.pc + 4) } target)) ∧
    ∀ rn : Reg,
      let t := s.armReg rn
      exec (.armBx c rn) s =
        .next (State.jumped { s with cpsr := s.cpsr &&& 0xFFFFFFDF#32 ||| (if t.getLsbD 0 then 0x20#32 else 0#32) } t)) ∧
  ∀ s : State,
    (∀ rs : Reg,
      let t := s.thumbReg rs
      let u := s.noted (rs = 15 ∧ s.pc.getLsbD 1 = true) (.unpredictable .bxPcMisaligned)
      exec (.thumbBx rs) s =
        .next (State.jumped { u with cpsr := s.cpsr &&& 0xFFFFFFDF#32 ||| (if t.getLsbD 0 then 0x20#32 else 0#32) } t)) ∧
    (∀ (c : Cond) (soff8 : BitVec 8),
      exec (.thumbBCond c soff8) s =
        .next (if condPassed s c then s.jumped (s.pc + 4 + BitVec.ofInt 32 (2 * soff8.toInt))
          else { s with pc := s.pc + 2 })) ∧
    ∀ off11 : BitVec 11,
      exec (.thumbB off11) s = .next (s.jumped (s.pc + 4 + BitVec.ofInt 32 (2 * off11.toInt))) ∧
      exec (.thumbBlFirst off11) s =
        .next { s with pc := s.pc + 2
                       gpr := s.gpr.set (gprSlot 14 s.mode) (s.pc + 4 + BitVec.ofInt 32 (4096 * off11.toInt)) } ∧
      exec (.thumbBlSecond off11) s =
        .next (State.jumped { s with gpr := s.gpr.set (gprSlot 14 s.mode) ((s.pc + 2) ||| 1#32) }
          (s.gpr[gprSlot 14 s.mode] + BitVec.ofNat 32 (2 * off11.toNat)))

/-! ### THUMB -/

/-- The logical and shift instructions of formats 1, 3 and 4 (R281 to R283, R288, R292 to R296, R299, R300, R304 to
R307): result, N and Z, C from the shifter or kept, V kept, `pc`, the cycles; nothing else. -/
def Obligations.ThumbLogical : Prop :=
  ∀ (s : State) (rs rd : LoReg),
    let a := s.gpr[gprSlot rd.toReg s.mode]
    let b := s.gpr[gprSlot rs.toReg s.mode]
    let carry := s.cpsr.getLsbD 29
    let put (r : Word) (sc : Bool) (cycles : Nat) : Host.Outcome State Fault Refusal :=
      .next (s.afterAlu (some rd.toReg) r (bitStatus s.cpsr r sc) 2 cycles)
    let shifted (x : Shifted) (cycles : Nat) : Host.Outcome State Fault Refusal := put x.value x.carry cycles
    (∀ imm5 : BitVec 5,
      exec (.thumbLslImm imm5 rs rd) s = shifted (shiftImm .lsl b imm5 carry) 0 ∧
      exec (.thumbLsrImm imm5 rs rd) s = shifted (shiftImm .lsr b imm5 carry) 0 ∧
      exec (.thumbAsrImm imm5 rs rd) s = shifted (shiftImm .asr b imm5 carry) 0) ∧
    (∀ imm8 : BitVec 8, exec (.thumbMovImm rd imm8) s = put (BitVec.ofNat 32 imm8.toNat) carry 0) ∧
    exec (.thumbLslReg rs rd) s = shifted (shift .lsl a (b.toNat % 256) carry) 1 ∧
    exec (.thumbLsrReg rs rd) s = shifted (shift .lsr a (b.toNat % 256) carry) 1 ∧
    exec (.thumbAsrReg rs rd) s = shifted (shift .asr a (b.toNat % 256) carry) 1 ∧
    exec (.thumbRorReg rs rd) s = shifted (shift .ror a (b.toNat % 256) carry) 1 ∧
    exec (.thumbAnd rs rd) s = put (a &&& b) carry 0 ∧
    exec (.thumbEor rs rd) s = put (a ^^^ b) carry 0 ∧
    exec (.thumbOrr rs rd) s = put (a ||| b) carry 0 ∧
    exec (.thumbBic rs rd) s = put (a &&& ~~~b) carry 0 ∧
    exec (.thumbMvn rs rd) s = put (~~~b) carry 0 ∧
    exec (.thumbMul rs rd) s = put (BitVec.ofNat 32 (a.toNat * b.toNat)) carry (mulCycles a true) ∧
    exec (.thumbTst rs rd) s = .next (s.afterAlu none 0 (bitStatus s.cpsr (a &&& b) carry) 2 0)

/-- The arithmetic instructions of formats 2, 3 and 4 (R284 to R287, R289 to R291, R297, R298, R301 to R303): result,
all four flags, `pc`; nothing else. -/
def Obligations.ThumbArithmetic : Prop :=
  ∀ (s : State) (rn rs rd : LoReg),
    let x (r : LoReg) : Word := s.gpr[gprSlot r.toReg s.mode]
    let carry := s.cpsr.getLsbD 29
    let sum (dest : Option Reg) (a b : Word) (cin : Bool) : Host.Outcome State Fault Refusal :=
      .next (s.afterAlu dest (a + b + BitVec.ofNat 32 cin.toNat) (addStatus s.cpsr a b cin) 2 0)
    let diff (dest : Option Reg) (a b : Word) (borrow : Bool) : Host.Outcome State Fault Refusal :=
      .next (s.afterAlu dest (a - b - BitVec.ofNat 32 borrow.toNat) (subStatus s.cpsr a b borrow) 2 0)
    exec (.thumbAddReg rn rs rd) s = sum (some rd.toReg) (x rs) (x rn) false ∧
    exec (.thumbSubReg rn rs rd) s = diff (some rd.toReg) (x rs) (x rn) false ∧
    (∀ imm3 : BitVec 3,
      exec (.thumbAddImm3 imm3 rs rd) s = sum (some rd.toReg) (x rs) (BitVec.ofNat 32 imm3.toNat) false ∧
      exec (.thumbSubImm3 imm3 rs rd) s = diff (some rd.toReg) (x rs) (BitVec.ofNat 32 imm3.toNat) false) ∧
    (∀ imm8 : BitVec 8,
      exec (.thumbCmpImm rd imm8) s = diff none (x rd) (BitVec.ofNat 32 imm8.toNat) false ∧
      exec (.thumbAddImm8 rd imm8) s = sum (some rd.toReg) (x rd) (BitVec.ofNat 32 imm8.toNat) false ∧
      exec (.thumbSubImm8 rd imm8) s = diff (some rd.toReg) (x rd) (BitVec.ofNat 32 imm8.toNat) false) ∧
    exec (.thumbAdc rs rd) s = sum (some rd.toReg) (x rd) (x rs) carry ∧
    exec (.thumbSbc rs rd) s = diff (some rd.toReg) (x rd) (x rs) !carry ∧
    exec (.thumbNeg rs rd) s = diff (some rd.toReg) 0 (x rs) false ∧
    exec (.thumbCmpReg rs rd) s = diff none (x rd) (x rs) false ∧
    exec (.thumbCmn rs rd) s = sum none (x rd) (x rs) false

/-- Formats 5, 12 and 13 (R320 to R322, R325 to R328): the high-register operations with the event of two low
registers, register 15 as a destination a jump, and the address additions; flags only from CMP. -/
def Obligations.ThumbHighRegisters : Prop :=
  (∀ (s : State) (rs rd : Reg),
    let x (n : Reg) : Word := if n = 15 then s.pc + 4 else s.gpr[gprSlot n s.mode]
    let t := s.noted (rs.val < 8 ∧ rd.val < 8) (.unpredictable .format5LowLow)
    exec (.thumbAddHigh rs rd) s = .next (t.ended 2 rd (x rd + x rs)) ∧
    exec (.thumbMovHigh rs rd) s = .next (t.ended 2 rd (x rs)) ∧
    exec (.thumbCmpHigh rs rd) s = .next (t.afterAlu none 0 (subStatus s.cpsr (x rd) (x rs) false) 2 0)) ∧
  ∀ (s : State) (rd : LoReg) (imm8 : BitVec 8) (imm7 : BitVec 7),
    let sp := s.gpr[gprSlot 13 s.mode]
    exec (.thumbAddPc rd imm8) s =
      .next (s.ended 2 rd.toReg (BitVec.ofNat 32 ((s.pc + 4).toNat / 4 * 4 + 4 * imm8.toNat))) ∧
    exec (.thumbAddSp rd imm8) s = .next (s.ended 2 rd.toReg (sp + BitVec.ofNat 32 (4 * imm8.toNat))) ∧
    exec (.thumbAddSpImm imm7) s = .next (s.ended 2 13 (sp + BitVec.ofNat 32 (4 * imm7.toNat))) ∧
    exec (.thumbAddSpNegImm imm7) s = .next (s.ended 2 13 (sp - BitVec.ofNat 32 (4 * imm7.toNat)))

/-- Formats 6 to 11 (R330 to R346): the address of each form, the load with one internal cycle into its register, the
store of its register; `pc`; no flag. -/
def Obligations.ThumbLoadsStores : Prop :=
  ∀ (s : State) (ro rb rd : LoReg) (imm5 : BitVec 5) (imm8 : BitVec 8),
    let x (r : LoReg) : Word := s.gpr[gprSlot r.toReg s.mode]
    let byReg := x rb + x ro
    let byImm (unit : Nat) : Word := x rb + BitVec.ofNat 32 (unit * imm5.toNat)
    let bySp : Word := s.gpr[gprSlot 13 s.mode] + BitVec.ofNat 32 (4 * imm8.toNat)
    let byPc : Word := BitVec.ofNat 32 ((s.pc + 4).toNat / 4 * 4 + 4 * imm8.toNat)
    let load (r : Word × State) : Host.Outcome State Fault Refusal :=
      .next (State.ended { r.2 with tally := r.2.tally + 1 } 2 rd.toReg r.1)
    let store (t : State) : Host.Outcome State Fault Refusal := .next { t with pc := s.pc + 2 }
    exec (.thumbLdrPc rd imm8) s = load (memRead .word byPc s) ∧
    exec (.thumbLdrReg ro rb rd) s = load (loadWord byReg s) ∧
    exec (.thumbLdrbReg ro rb rd) s = load (loadByte byReg s) ∧
    exec (.thumbLdrhReg ro rb rd) s = load (loadHalf byReg s) ∧
    exec (.thumbLdsbReg ro rb rd) s = load (loadSignedByte byReg s) ∧
    exec (.thumbLdshReg ro rb rd) s = load (loadSignedHalf byReg s) ∧
    exec (.thumbLdrImm imm5 rb rd) s = load (loadWord (byImm 4) s) ∧
    exec (.thumbLdrbImm imm5 rb rd) s = load (loadByte (byImm 1) s) ∧
    exec (.thumbLdrhImm imm5 rb rd) s = load (loadHalf (byImm 2) s) ∧
    exec (.thumbLdrSp rd imm8) s = load (loadWord bySp s) ∧
    exec (.thumbStrReg ro rb rd) s = store (storeWord byReg (x rd) s) ∧
    exec (.thumbStrbReg ro rb rd) s = store (storeByte byReg (x rd) s) ∧
    exec (.thumbStrhReg ro rb rd) s = store (storeHalf byReg (x rd) s) ∧
    exec (.thumbStrImm imm5 rb rd) s = store (storeWord (byImm 4) (x rd) s) ∧
    exec (.thumbStrbImm imm5 rb rd) s = store (storeByte (byImm 1) (x rd) s) ∧
    exec (.thumbStrhImm imm5 rb rd) s = store (storeHalf (byImm 2) (x rd) s) ∧
    exec (.thumbStrSp rd imm8) s = store (storeWord bySp (x rd) s)

/-- POP and LDMIA (R351, R353, R354) from storage or register cells, an empty list included: the loaded registers, the
base (a loaded base wins), every other register; and the whole next state: the cost of every word access in turn, one
internal cycle, then `pc`, with r15 loaded a jump that keeps T. -/
def Obligations.ThumbLoadMultiple : Prop :=
  ∀ (s : State) (rlist : BitVec 8) (i : Instr) (base : Reg) (extra : Bool), s.cpsr.getLsbD 5 = true →
    (i = .thumbPop extra rlist ∧ base = 13 ∨
      ∃ rb : LoReg, i = .thumbLdmia rb rlist ∧ base = rb.toReg ∧ extra = false) →
    let low : List Reg := ((List.finRange 8).filter fun r => rlist.getLsbD r.val).map LoReg.toReg
    let empty : Bool := rlist = 0 ∧ extra = false
    let regs : List Reg := if empty then [15] else low ++ (if extra then [15] else [])
    let n := regs.length
    let start := s.gpr[gprSlot base s.mode]
    let at' (k : Nat) : Word := BitVec.ofNat 32 ((start + BitVec.ofNat 32 (4 * k)).toNat / 4 * 4)
    (∀ k, k < n → plainAccess s .word (at' k) = true) →
    ∃ g : Vector Word 30,
      (∀ (k : Nat) (r : Reg), regs[k]? = some r → r ≠ 15 → g[gprSlot r s.mode] = peek s .word (at' k)) ∧
      (base ∉ regs → g[gprSlot base s.mode] = start + BitVec.ofNat 32 (if empty then 0x40 else 4 * n)) ∧
      (∀ j : Fin 30, (∀ r ∈ regs, r ≠ 15 → gprSlot r s.mode ≠ j) → gprSlot base s.mode ≠ j → g[j] = s.gpr[j]) ∧
      exec i s = .next
        (let a := s.accessedWords ((List.range n).map at')
         let t : State := { a with gpr := g, tally := a.tally + 1 }
         if (15 : Reg) ∈ regs then t.jumped (peek s .word (at' (n - 1))) else { t with pc := s.pc + 2 })

/-- PUSH and STMIA (R350, R352, R354) to work RAM, an empty list included: the words stored and every other byte kept;
and the whole next state: the cost of every word access in turn, the base, `pc`. -/
def Obligations.ThumbStoreMultiple : Prop :=
  ∀ (s : State) (rlist : BitVec 8), s.MemoriesOk →
    let low : List Reg := ((List.finRange 8).filter fun r => rlist.getLsbD r.val).map LoReg.toReg
    let inRam (a : Word) : Prop := device s.params a = .ewram ∨ device s.params a = .iwram
    let at' (start : Word) (k : Nat) : Word := BitVec.ofNat 32 ((start + BitVec.ofNat 32 (4 * k)).toNat / 4 * 4)
    let after (t : State) (start : Word) (n : Nat) (base : Reg) (final : Word) : Prop :=
      memoryKeptExcept s t (at' start 0) (4 * n) ∧
      t =
        { s.accessedWords ((List.range n).map (at' start)) with
          ewram := t.ewram
          iwram := t.iwram
          gpr := s.gpr.set (gprSlot base s.mode) final
          pc := s.pc + 2 }
    (∀ r : Bool,
      let regs : List Reg := low ++ (if r then [14] else [])
      let sp := s.gpr[gprSlot 13 s.mode]
      let start := sp - BitVec.ofNat 32 (if regs = [] then 0x40 else 4 * regs.length)
      (∀ k, k < max 1 regs.length → inRam (at' start k)) →
      ∃ t : State, exec (.thumbPush r rlist) s = .next t ∧
        (∀ (k : Nat) (n : Reg), regs[k]? = some n → peek t .word (at' start k) = s.gpr[gprSlot n s.mode]) ∧
        (regs = [] → peek t .word (at' start 0) = s.pc + 6) ∧
        after t start (max 1 regs.length) 13 start) ∧
    ∀ rb : LoReg,
      let start := s.gpr[gprSlot rb.toReg s.mode]
      let final := start + BitVec.ofNat 32 (if low = [] then 0x40 else 4 * low.length)
      (∀ k, k < max 1 low.length → inRam (at' start k)) →
      ∃ t : State, exec (.thumbStmia rb rlist) s = .next t ∧
        (∀ (k : Nat) (n : Reg), low[k]? = some n → peek t .word (at' start k) =
          (if n = rb.toReg then (if k = 0 then start else final) else s.gpr[gprSlot n s.mode])) ∧
        (low = [] → peek t .word (at' start 0) = s.pc + 6) ∧
        after t start (max 1 low.length) rb.toReg final

/-! ### Timers -/

/-- One cycle of the timer bank (R454, R455): which channels advance, the prescaler, the reload on overflow, the
cascade, the interrupt bits; nothing else changes. -/
def Obligations.TimerTick : Prop :=
  ∀ s : State,
    let t := timerTick s
    t = { s with timers := t.timers, iflag := t.iflag } ∧
    (∀ k : Fin 4,
      let c := s.timers[k]
      let free := c.enabled && (k == 0 || !c.chain)
      t.timers[k] =
        { c with
          sub := if free then (if c.divisor ≤ c.sub + 1 then 0 else c.sub + 1) else c.sub
          counter :=
            if timerAdvances s k then (if c.counter = 0xFFFF#16 then c.reload else c.counter + 1) else c.counter }) ∧
    ∀ j : Nat, j < 16 → t.iflag.getLsbD j =
      (s.iflag.getLsbD j ||
        (decide (3 ≤ j ∧ j < 7) && timerOverflows s (j - 3) && (timerOf s (j - 3)).irq))
end

