-- ==== Sys2Proof/Laws/Memory.lean ====
section
/-! SUPPORT. The byte memories: a write is read back and leaves every other byte alone, and every write keeps the
canonical form and the bound of the addresses. -/

set_option Elab.async false

namespace Sys2Proof.Machine

/-- Every listed address is above `n`. -/
def Memory.above (m : Memory) (n : Nat) : Bool := m.all fun c => decide (n < c.1)

theorem Memory.wf_cons {k : Nat} {b : Byte} {m : Memory} :
    Memory.wf ((k, b) :: m) = true ↔ b ≠ 0 ∧ m.above k = true ∧ Memory.wf m = true := by
  simp [Memory.wf, Memory.above, and_assoc]

theorem Memory.above_cons {n k : Nat} {b : Byte} {m : Memory} :
    Memory.above ((k, b) :: m) n = true ↔ n < k ∧ m.above n = true := by simp [Memory.above]

theorem Memory.below_cons {n k : Nat} {b : Byte} {m : Memory} :
    Memory.below ((k, b) :: m) n = true ↔ k < n ∧ m.below n = true := by simp [Memory.below]

theorem Memory.above_mono {m : Memory} {n k : Nat} (h : m.above k = true) (hn : n ≤ k) : m.above n = true := by
  simp only [Memory.above, List.all_eq_true, decide_eq_true_eq] at *
  exact fun c hc => Nat.lt_of_le_of_lt hn (h c hc)

theorem Memory.below_mono {m : Memory} {n k : Nat} (h : m.below n = true) (hn : n ≤ k) : m.below k = true := by
  simp only [Memory.below, List.all_eq_true, decide_eq_true_eq] at *
  exact fun c hc => Nat.lt_of_lt_of_le (h c hc) hn

/-- A byte below every listed address is unlisted. -/
theorem Memory.get_of_above {m : Memory} {n a : Nat} (h : m.above n = true) (ha : a ≤ n) : m.get a = 0 := by
  induction m with
  | nil => rfl
  | cons c rest ih =>
    obtain ⟨k, b⟩ := c
    obtain ⟨hk, hr⟩ := Memory.above_cons.mp h
    rw [Memory.get, if_neg (by omega)]
    exact ih hr

theorem Memory.above_set {m : Memory} {n a : Nat} {v : Byte} (h : m.above n = true) (ha : n < a) :
    (m.set a v).above n = true := by
  induction m with
  | nil =>
    rw [Memory.set]
    split
    · rfl
    · simp [Memory.above, ha]
  | cons c rest ih =>
    obtain ⟨k, b⟩ := c
    obtain ⟨hk, hr⟩ := Memory.above_cons.mp h
    rw [Memory.set]
    split
    · split
      · exact h
      · exact Memory.above_cons.mpr ⟨ha, h⟩
    · split
      · split
        · exact hr
        · exact Memory.above_cons.mpr ⟨ha, hr⟩
      · exact Memory.above_cons.mpr ⟨hk, ih hr⟩

/-- A write keeps the canonical form. -/
theorem Memory.wf_set {m : Memory} {a : Nat} {v : Byte} (h : m.wf = true) : (m.set a v).wf = true := by
  induction m with
  | nil =>
    rw [Memory.set]
    split
    · rfl
    · rename_i hv
      exact Memory.wf_cons.mpr ⟨hv, rfl, rfl⟩
  | cons c rest ih =>
    obtain ⟨k, b⟩ := c
    obtain ⟨hb, hk, hr⟩ := Memory.wf_cons.mp h
    rw [Memory.set]
    split
    · rename_i hak
      split
      · exact h
      · rename_i hv
        exact Memory.wf_cons.mpr ⟨hv, Memory.above_cons.mpr ⟨hak, Memory.above_mono hk (by omega)⟩, h⟩
    · split
      · rename_i hak
        subst hak
        split
        · exact hr
        · rename_i hv
          exact Memory.wf_cons.mpr ⟨hv, hk, hr⟩
      · exact Memory.wf_cons.mpr ⟨hb, Memory.above_set hk (by omega), ih hr⟩

/-- A write below the bound keeps the bound. -/
theorem Memory.below_set {m : Memory} {n a : Nat} {v : Byte} (h : m.below n = true) (ha : a < n) :
    (m.set a v).below n = true := by
  induction m with
  | nil =>
    rw [Memory.set]
    split
    · rfl
    · simp [Memory.below, ha]
  | cons c rest ih =>
    obtain ⟨k, b⟩ := c
    obtain ⟨hk, hr⟩ := Memory.below_cons.mp h
    rw [Memory.set]
    split
    · split
      · exact h
      · exact Memory.below_cons.mpr ⟨ha, h⟩
    · split
      · split
        · exact hr
        · exact Memory.below_cons.mpr ⟨ha, hr⟩
      · exact Memory.below_cons.mpr ⟨hk, ih hr⟩

/-- What a write leaves at every address. -/
theorem Memory.get_set {m : Memory} (h : m.wf = true) (a b : Nat) (v : Byte) :
    (m.set a v).get b = if b = a then v else m.get b := by
  induction m with
  | nil =>
    rw [Memory.set]
    by_cases hab : b = a
    · rw [if_pos hab]
      split
      · exact (‹v = 0›).symm
      · rw [Memory.get, if_pos hab.symm]
    · rw [if_neg hab]
      split
      · rfl
      · simp only [Memory.get, if_neg (Ne.symm hab)]
  | cons c rest ih =>
    obtain ⟨k, w⟩ := c
    obtain ⟨hw, hk, hr⟩ := Memory.wf_cons.mp h
    rw [Memory.set]
    split
    · rename_i hak
      split
      · rename_i hv
        by_cases hab : b = a
        · rw [if_pos hab, hv, hab, Memory.get, if_neg (by omega)]
          exact Memory.get_of_above hk (by omega)
        · rw [if_neg hab]
      · by_cases hab : b = a
        · rw [if_pos hab, Memory.get, if_pos hab.symm]
        · rw [if_neg hab, Memory.get, if_neg (Ne.symm hab)]
    · split
      · rename_i hak
        subst hak
        split
        · rename_i hv
          by_cases hab : b = a
          · rw [if_pos hab, hv, hab]
            exact Memory.get_of_above hk (Nat.le_refl _)
          · rw [if_neg hab, Memory.get, if_neg (Ne.symm hab)]
        · by_cases hab : b = a
          · rw [if_pos hab, Memory.get, if_pos hab.symm]
          · rw [if_neg hab, Memory.get, if_neg (Ne.symm hab), Memory.get, if_neg (Ne.symm hab)]
      · rename_i h1 h2
        rw [Memory.get]
        by_cases hkb : k = b
        · rw [if_pos hkb, if_neg (by omega), Memory.get, if_pos hkb]
        · rw [if_neg hkb, ih hr, Memory.get, if_neg hkb]

/-- Writing several bytes keeps the canonical form. -/
theorem Memory.wf_setBytes {m : Memory} (h : m.wf = true) (place : Nat → Nat) (v : Nat → Byte) (n : Nat) :
    (m.setBytes place v n).wf = true := by
  induction n with
  | zero => exact h
  | succ n ih => exact Memory.wf_set ih

/-- Writing several bytes below the bound keeps the bound. -/
theorem Memory.below_setBytes {m : Memory} {k : Nat} (h : m.below k = true) (place : Nat → Nat) (v : Nat → Byte) (n : Nat)
    (hp : ∀ i, i < n → place i < k) : (m.setBytes place v n).below k = true := by
  induction n with
  | zero => exact h
  | succ n ih => exact Memory.below_set (ih fun i hi => hp i (by omega)) (hp n (by omega))

/-- Writing several bytes leaves every other byte alone. -/
theorem Memory.get_setBytes_other {m : Memory} (h : m.wf = true) (place : Nat → Nat) (v : Nat → Byte) (n b : Nat)
    (hb : ∀ i, i < n → place i ≠ b) : (m.setBytes place v n).get b = m.get b := by
  induction n with
  | zero => rfl
  | succ n ih =>
    rw [Memory.setBytes, Memory.get_set (Memory.wf_setBytes h _ _ _), if_neg (Ne.symm (hb n (by omega)))]
    exact ih fun i hi => hb i (by omega)

/-- Writing several bytes to different places leaves each of them readable. -/
theorem Memory.get_setBytes {m : Memory} (h : m.wf = true) (place : Nat → Nat) (v : Nat → Byte) (n i : Nat) (hi : i < n)
    (hp : ∀ j k, j < n → k < n → place j = place k → j = k) : (m.setBytes place v n).get (place i) = v i := by
  induction n with
  | zero => omega
  | succ n ih =>
    rw [Memory.setBytes, Memory.get_set (Memory.wf_setBytes h _ _ _)]
    by_cases hin : i = n
    · rw [if_pos (by rw [hin]), hin]
    · rw [if_neg (fun e => hin (hp i n (by omega) (by omega) e))]
      exact ih (by omega) fun j k hj hk => hp j k (by omega) (by omega)

end Sys2Proof.Machine
end

