-- ==== Sys2Proof/Laws/State.lean ====
section
/-! SUPPORT. What each update of the state leaves in each field: one lemma for each field of each update, by `rfl`. -/

set_option Elab.async false

namespace Sys2Proof.Machine

/-! `withGpr` -/

@[simp] theorem State.withGpr_params (s : State) (i : Fin 30) (v : Word) : (s.withGpr i v).params = s.params := rfl
@[simp] theorem State.withGpr_gpr (s : State) (i : Fin 30) (v : Word) : (s.withGpr i v).gpr = s.gpr.set i v := rfl
@[simp] theorem State.withGpr_pc (s : State) (i : Fin 30) (v : Word) : (s.withGpr i v).pc = s.pc := rfl
@[simp] theorem State.withGpr_cpsr (s : State) (i : Fin 30) (v : Word) : (s.withGpr i v).cpsr = s.cpsr := rfl
@[simp] theorem State.withGpr_spsr (s : State) (i : Fin 30) (v : Word) : (s.withGpr i v).spsr = s.spsr := rfl
@[simp] theorem State.withGpr_spsrValid (s : State) (i : Fin 30) (v : Word) : (s.withGpr i v).spsrValid = s.spsrValid := rfl
@[simp] theorem State.withGpr_ie (s : State) (i : Fin 30) (v : Word) : (s.withGpr i v).ie = s.ie := rfl
@[simp] theorem State.withGpr_iflag (s : State) (i : Fin 30) (v : Word) : (s.withGpr i v).iflag = s.iflag := rfl
@[simp] theorem State.withGpr_waitcnt (s : State) (i : Fin 30) (v : Word) : (s.withGpr i v).waitcnt = s.waitcnt := rfl
@[simp] theorem State.withGpr_ime (s : State) (i : Fin 30) (v : Word) : (s.withGpr i v).ime = s.ime := rfl
@[simp] theorem State.withGpr_postflg (s : State) (i : Fin 30) (v : Word) : (s.withGpr i v).postflg = s.postflg := rfl
@[simp] theorem State.withGpr_timers (s : State) (i : Fin 30) (v : Word) : (s.withGpr i v).timers = s.timers := rfl
@[simp] theorem State.withGpr_dma (s : State) (i : Fin 30) (v : Word) : (s.withGpr i v).dma = s.dma := rfl
@[simp] theorem State.withGpr_bios (s : State) (i : Fin 30) (v : Word) : (s.withGpr i v).bios = s.bios := rfl
@[simp] theorem State.withGpr_ewram (s : State) (i : Fin 30) (v : Word) : (s.withGpr i v).ewram = s.ewram := rfl
@[simp] theorem State.withGpr_iwram (s : State) (i : Fin 30) (v : Word) : (s.withGpr i v).iwram = s.iwram := rfl
@[simp] theorem State.withGpr_rom (s : State) (i : Fin 30) (v : Word) : (s.withGpr i v).rom = s.rom := rfl
@[simp] theorem State.withGpr_extMem (s : State) (i : Fin 30) (v : Word) : (s.withGpr i v).extMem = s.extMem := rfl
@[simp] theorem State.withGpr_halted (s : State) (i : Fin 30) (v : Word) : (s.withGpr i v).halted = s.halted := rfl
@[simp] theorem State.withGpr_seqNext (s : State) (i : Fin 30) (v : Word) : (s.withGpr i v).seqNext = s.seqNext := rfl
@[simp] theorem State.withGpr_lastCost (s : State) (i : Fin 30) (v : Word) : (s.withGpr i v).lastCost = s.lastCost := rfl
@[simp] theorem State.withGpr_tally (s : State) (i : Fin 30) (v : Word) : (s.withGpr i v).tally = s.tally := rfl
@[simp] theorem State.withGpr_ir (s : State) (i : Fin 30) (v : Word) : (s.withGpr i v).ir = s.ir := rfl
@[simp] theorem State.withGpr_diag (s : State) (i : Fin 30) (v : Word) : (s.withGpr i v).diag = s.diag := rfl
@[simp] theorem State.withGpr_fatal (s : State) (i : Fin 30) (v : Word) : (s.withGpr i v).fatal = s.fatal := rfl
@[simp] theorem State.withGpr_cyclesTotal (s : State) (i : Fin 30) (v : Word) : (s.withGpr i v).cyclesTotal = s.cyclesTotal := rfl
@[simp] theorem State.withGpr_lastIrq (s : State) (i : Fin 30) (v : Word) : (s.withGpr i v).lastIrq = s.lastIrq := rfl
@[simp] theorem State.withGpr_drawCount (s : State) (i : Fin 30) (v : Word) : (s.withGpr i v).drawCount = s.drawCount := rfl
@[simp] theorem State.withGpr_extCount (s : State) (i : Fin 30) (v : Word) : (s.withGpr i v).extCount = s.extCount := rfl

/-! `withPc` -/

@[simp] theorem State.withPc_params (s : State) (v : Word) : (s.withPc v).params = s.params := rfl
@[simp] theorem State.withPc_gpr (s : State) (v : Word) : (s.withPc v).gpr = s.gpr := rfl
@[simp] theorem State.withPc_pc (s : State) (v : Word) : (s.withPc v).pc = v := rfl
@[simp] theorem State.withPc_cpsr (s : State) (v : Word) : (s.withPc v).cpsr = s.cpsr := rfl
@[simp] theorem State.withPc_spsr (s : State) (v : Word) : (s.withPc v).spsr = s.spsr := rfl
@[simp] theorem State.withPc_spsrValid (s : State) (v : Word) : (s.withPc v).spsrValid = s.spsrValid := rfl
@[simp] theorem State.withPc_ie (s : State) (v : Word) : (s.withPc v).ie = s.ie := rfl
@[simp] theorem State.withPc_iflag (s : State) (v : Word) : (s.withPc v).iflag = s.iflag := rfl
@[simp] theorem State.withPc_waitcnt (s : State) (v : Word) : (s.withPc v).waitcnt = s.waitcnt := rfl
@[simp] theorem State.withPc_ime (s : State) (v : Word) : (s.withPc v).ime = s.ime := rfl
@[simp] theorem State.withPc_postflg (s : State) (v : Word) : (s.withPc v).postflg = s.postflg := rfl
@[simp] theorem State.withPc_timers (s : State) (v : Word) : (s.withPc v).timers = s.timers := rfl
@[simp] theorem State.withPc_dma (s : State) (v : Word) : (s.withPc v).dma = s.dma := rfl
@[simp] theorem State.withPc_bios (s : State) (v : Word) : (s.withPc v).bios = s.bios := rfl
@[simp] theorem State.withPc_ewram (s : State) (v : Word) : (s.withPc v).ewram = s.ewram := rfl
@[simp] theorem State.withPc_iwram (s : State) (v : Word) : (s.withPc v).iwram = s.iwram := rfl
@[simp] theorem State.withPc_rom (s : State) (v : Word) : (s.withPc v).rom = s.rom := rfl
@[simp] theorem State.withPc_extMem (s : State) (v : Word) : (s.withPc v).extMem = s.extMem := rfl
@[simp] theorem State.withPc_halted (s : State) (v : Word) : (s.withPc v).halted = s.halted := rfl
@[simp] theorem State.withPc_seqNext (s : State) (v : Word) : (s.withPc v).seqNext = s.seqNext := rfl
@[simp] theorem State.withPc_lastCost (s : State) (v : Word) : (s.withPc v).lastCost = s.lastCost := rfl
@[simp] theorem State.withPc_tally (s : State) (v : Word) : (s.withPc v).tally = s.tally := rfl
@[simp] theorem State.withPc_ir (s : State) (v : Word) : (s.withPc v).ir = s.ir := rfl
@[simp] theorem State.withPc_diag (s : State) (v : Word) : (s.withPc v).diag = s.diag := rfl
@[simp] theorem State.withPc_fatal (s : State) (v : Word) : (s.withPc v).fatal = s.fatal := rfl
@[simp] theorem State.withPc_cyclesTotal (s : State) (v : Word) : (s.withPc v).cyclesTotal = s.cyclesTotal := rfl
@[simp] theorem State.withPc_lastIrq (s : State) (v : Word) : (s.withPc v).lastIrq = s.lastIrq := rfl
@[simp] theorem State.withPc_drawCount (s : State) (v : Word) : (s.withPc v).drawCount = s.drawCount := rfl
@[simp] theorem State.withPc_extCount (s : State) (v : Word) : (s.withPc v).extCount = s.extCount := rfl

/-! `withCpsr` -/

@[simp] theorem State.withCpsr_params (s : State) (v : Word) : (s.withCpsr v).params = s.params := rfl
@[simp] theorem State.withCpsr_gpr (s : State) (v : Word) : (s.withCpsr v).gpr = s.gpr := rfl
@[simp] theorem State.withCpsr_pc (s : State) (v : Word) : (s.withCpsr v).pc = s.pc := rfl
@[simp] theorem State.withCpsr_cpsr (s : State) (v : Word) : (s.withCpsr v).cpsr = v := rfl
@[simp] theorem State.withCpsr_spsr (s : State) (v : Word) : (s.withCpsr v).spsr = s.spsr := rfl
@[simp] theorem State.withCpsr_spsrValid (s : State) (v : Word) : (s.withCpsr v).spsrValid = s.spsrValid := rfl
@[simp] theorem State.withCpsr_ie (s : State) (v : Word) : (s.withCpsr v).ie = s.ie := rfl
@[simp] theorem State.withCpsr_iflag (s : State) (v : Word) : (s.withCpsr v).iflag = s.iflag := rfl
@[simp] theorem State.withCpsr_waitcnt (s : State) (v : Word) : (s.withCpsr v).waitcnt = s.waitcnt := rfl
@[simp] theorem State.withCpsr_ime (s : State) (v : Word) : (s.withCpsr v).ime = s.ime := rfl
@[simp] theorem State.withCpsr_postflg (s : State) (v : Word) : (s.withCpsr v).postflg = s.postflg := rfl
@[simp] theorem State.withCpsr_timers (s : State) (v : Word) : (s.withCpsr v).timers = s.timers := rfl
@[simp] theorem State.withCpsr_dma (s : State) (v : Word) : (s.withCpsr v).dma = s.dma := rfl
@[simp] theorem State.withCpsr_bios (s : State) (v : Word) : (s.withCpsr v).bios = s.bios := rfl
@[simp] theorem State.withCpsr_ewram (s : State) (v : Word) : (s.withCpsr v).ewram = s.ewram := rfl
@[simp] theorem State.withCpsr_iwram (s : State) (v : Word) : (s.withCpsr v).iwram = s.iwram := rfl
@[simp] theorem State.withCpsr_rom (s : State) (v : Word) : (s.withCpsr v).rom = s.rom := rfl
@[simp] theorem State.withCpsr_extMem (s : State) (v : Word) : (s.withCpsr v).extMem = s.extMem := rfl
@[simp] theorem State.withCpsr_halted (s : State) (v : Word) : (s.withCpsr v).halted = s.halted := rfl
@[simp] theorem State.withCpsr_seqNext (s : State) (v : Word) : (s.withCpsr v).seqNext = s.seqNext := rfl
@[simp] theorem State.withCpsr_lastCost (s : State) (v : Word) : (s.withCpsr v).lastCost = s.lastCost := rfl
@[simp] theorem State.withCpsr_tally (s : State) (v : Word) : (s.withCpsr v).tally = s.tally := rfl
@[simp] theorem State.withCpsr_ir (s : State) (v : Word) : (s.withCpsr v).ir = s.ir := rfl
@[simp] theorem State.withCpsr_diag (s : State) (v : Word) : (s.withCpsr v).diag = s.diag := rfl
@[simp] theorem State.withCpsr_fatal (s : State) (v : Word) : (s.withCpsr v).fatal = s.fatal := rfl
@[simp] theorem State.withCpsr_cyclesTotal (s : State) (v : Word) : (s.withCpsr v).cyclesTotal = s.cyclesTotal := rfl
@[simp] theorem State.withCpsr_lastIrq (s : State) (v : Word) : (s.withCpsr v).lastIrq = s.lastIrq := rfl
@[simp] theorem State.withCpsr_drawCount (s : State) (v : Word) : (s.withCpsr v).drawCount = s.drawCount := rfl
@[simp] theorem State.withCpsr_extCount (s : State) (v : Word) : (s.withCpsr v).extCount = s.extCount := rfl

/-! `withSpsr` -/

@[simp] theorem State.withSpsr_params (s : State) (m : Fin 5) (v : Word) : (s.withSpsr m v).params = s.params := rfl
@[simp] theorem State.withSpsr_gpr (s : State) (m : Fin 5) (v : Word) : (s.withSpsr m v).gpr = s.gpr := rfl
@[simp] theorem State.withSpsr_pc (s : State) (m : Fin 5) (v : Word) : (s.withSpsr m v).pc = s.pc := rfl
@[simp] theorem State.withSpsr_cpsr (s : State) (m : Fin 5) (v : Word) : (s.withSpsr m v).cpsr = s.cpsr := rfl
@[simp] theorem State.withSpsr_spsr (s : State) (m : Fin 5) (v : Word) : (s.withSpsr m v).spsr = s.spsr.set m v := rfl
@[simp] theorem State.withSpsr_spsrValid (s : State) (m : Fin 5) (v : Word) : (s.withSpsr m v).spsrValid = s.spsrValid := rfl
@[simp] theorem State.withSpsr_ie (s : State) (m : Fin 5) (v : Word) : (s.withSpsr m v).ie = s.ie := rfl
@[simp] theorem State.withSpsr_iflag (s : State) (m : Fin 5) (v : Word) : (s.withSpsr m v).iflag = s.iflag := rfl
@[simp] theorem State.withSpsr_waitcnt (s : State) (m : Fin 5) (v : Word) : (s.withSpsr m v).waitcnt = s.waitcnt := rfl
@[simp] theorem State.withSpsr_ime (s : State) (m : Fin 5) (v : Word) : (s.withSpsr m v).ime = s.ime := rfl
@[simp] theorem State.withSpsr_postflg (s : State) (m : Fin 5) (v : Word) : (s.withSpsr m v).postflg = s.postflg := rfl
@[simp] theorem State.withSpsr_timers (s : State) (m : Fin 5) (v : Word) : (s.withSpsr m v).timers = s.timers := rfl
@[simp] theorem State.withSpsr_dma (s : State) (m : Fin 5) (v : Word) : (s.withSpsr m v).dma = s.dma := rfl
@[simp] theorem State.withSpsr_bios (s : State) (m : Fin 5) (v : Word) : (s.withSpsr m v).bios = s.bios := rfl
@[simp] theorem State.withSpsr_ewram (s : State) (m : Fin 5) (v : Word) : (s.withSpsr m v).ewram = s.ewram := rfl
@[simp] theorem State.withSpsr_iwram (s : State) (m : Fin 5) (v : Word) : (s.withSpsr m v).iwram = s.iwram := rfl
@[simp] theorem State.withSpsr_rom (s : State) (m : Fin 5) (v : Word) : (s.withSpsr m v).rom = s.rom := rfl
@[simp] theorem State.withSpsr_extMem (s : State) (m : Fin 5) (v : Word) : (s.withSpsr m v).extMem = s.extMem := rfl
@[simp] theorem State.withSpsr_halted (s : State) (m : Fin 5) (v : Word) : (s.withSpsr m v).halted = s.halted := rfl
@[simp] theorem State.withSpsr_seqNext (s : State) (m : Fin 5) (v : Word) : (s.withSpsr m v).seqNext = s.seqNext := rfl
@[simp] theorem State.withSpsr_lastCost (s : State) (m : Fin 5) (v : Word) : (s.withSpsr m v).lastCost = s.lastCost := rfl
@[simp] theorem State.withSpsr_tally (s : State) (m : Fin 5) (v : Word) : (s.withSpsr m v).tally = s.tally := rfl
@[simp] theorem State.withSpsr_ir (s : State) (m : Fin 5) (v : Word) : (s.withSpsr m v).ir = s.ir := rfl
@[simp] theorem State.withSpsr_diag (s : State) (m : Fin 5) (v : Word) : (s.withSpsr m v).diag = s.diag := rfl
@[simp] theorem State.withSpsr_fatal (s : State) (m : Fin 5) (v : Word) : (s.withSpsr m v).fatal = s.fatal := rfl
@[simp] theorem State.withSpsr_cyclesTotal (s : State) (m : Fin 5) (v : Word) : (s.withSpsr m v).cyclesTotal = s.cyclesTotal := rfl
@[simp] theorem State.withSpsr_lastIrq (s : State) (m : Fin 5) (v : Word) : (s.withSpsr m v).lastIrq = s.lastIrq := rfl
@[simp] theorem State.withSpsr_drawCount (s : State) (m : Fin 5) (v : Word) : (s.withSpsr m v).drawCount = s.drawCount := rfl
@[simp] theorem State.withSpsr_extCount (s : State) (m : Fin 5) (v : Word) : (s.withSpsr m v).extCount = s.extCount := rfl

/-! `withSpsrValid` -/

@[simp] theorem State.withSpsrValid_params (s : State) (m : Fin 5) (b : Bool) : (s.withSpsrValid m b).params = s.params := rfl
@[simp] theorem State.withSpsrValid_gpr (s : State) (m : Fin 5) (b : Bool) : (s.withSpsrValid m b).gpr = s.gpr := rfl
@[simp] theorem State.withSpsrValid_pc (s : State) (m : Fin 5) (b : Bool) : (s.withSpsrValid m b).pc = s.pc := rfl
@[simp] theorem State.withSpsrValid_cpsr (s : State) (m : Fin 5) (b : Bool) : (s.withSpsrValid m b).cpsr = s.cpsr := rfl
@[simp] theorem State.withSpsrValid_spsr (s : State) (m : Fin 5) (b : Bool) : (s.withSpsrValid m b).spsr = s.spsr := rfl
@[simp] theorem State.withSpsrValid_spsrValid (s : State) (m : Fin 5) (b : Bool) : (s.withSpsrValid m b).spsrValid = s.spsrValid.set m b := rfl
@[simp] theorem State.withSpsrValid_ie (s : State) (m : Fin 5) (b : Bool) : (s.withSpsrValid m b).ie = s.ie := rfl
@[simp] theorem State.withSpsrValid_iflag (s : State) (m : Fin 5) (b : Bool) : (s.withSpsrValid m b).iflag = s.iflag := rfl
@[simp] theorem State.withSpsrValid_waitcnt (s : State) (m : Fin 5) (b : Bool) : (s.withSpsrValid m b).waitcnt = s.waitcnt := rfl
@[simp] theorem State.withSpsrValid_ime (s : State) (m : Fin 5) (b : Bool) : (s.withSpsrValid m b).ime = s.ime := rfl
@[simp] theorem State.withSpsrValid_postflg (s : State) (m : Fin 5) (b : Bool) : (s.withSpsrValid m b).postflg = s.postflg := rfl
@[simp] theorem State.withSpsrValid_timers (s : State) (m : Fin 5) (b : Bool) : (s.withSpsrValid m b).timers = s.timers := rfl
@[simp] theorem State.withSpsrValid_dma (s : State) (m : Fin 5) (b : Bool) : (s.withSpsrValid m b).dma = s.dma := rfl
@[simp] theorem State.withSpsrValid_bios (s : State) (m : Fin 5) (b : Bool) : (s.withSpsrValid m b).bios = s.bios := rfl
@[simp] theorem State.withSpsrValid_ewram (s : State) (m : Fin 5) (b : Bool) : (s.withSpsrValid m b).ewram = s.ewram := rfl
@[simp] theorem State.withSpsrValid_iwram (s : State) (m : Fin 5) (b : Bool) : (s.withSpsrValid m b).iwram = s.iwram := rfl
@[simp] theorem State.withSpsrValid_rom (s : State) (m : Fin 5) (b : Bool) : (s.withSpsrValid m b).rom = s.rom := rfl
@[simp] theorem State.withSpsrValid_extMem (s : State) (m : Fin 5) (b : Bool) : (s.withSpsrValid m b).extMem = s.extMem := rfl
@[simp] theorem State.withSpsrValid_halted (s : State) (m : Fin 5) (b : Bool) : (s.withSpsrValid m b).halted = s.halted := rfl
@[simp] theorem State.withSpsrValid_seqNext (s : State) (m : Fin 5) (b : Bool) : (s.withSpsrValid m b).seqNext = s.seqNext := rfl
@[simp] theorem State.withSpsrValid_lastCost (s : State) (m : Fin 5) (b : Bool) : (s.withSpsrValid m b).lastCost = s.lastCost := rfl
@[simp] theorem State.withSpsrValid_tally (s : State) (m : Fin 5) (b : Bool) : (s.withSpsrValid m b).tally = s.tally := rfl
@[simp] theorem State.withSpsrValid_ir (s : State) (m : Fin 5) (b : Bool) : (s.withSpsrValid m b).ir = s.ir := rfl
@[simp] theorem State.withSpsrValid_diag (s : State) (m : Fin 5) (b : Bool) : (s.withSpsrValid m b).diag = s.diag := rfl
@[simp] theorem State.withSpsrValid_fatal (s : State) (m : Fin 5) (b : Bool) : (s.withSpsrValid m b).fatal = s.fatal := rfl
@[simp] theorem State.withSpsrValid_cyclesTotal (s : State) (m : Fin 5) (b : Bool) : (s.withSpsrValid m b).cyclesTotal = s.cyclesTotal := rfl
@[simp] theorem State.withSpsrValid_lastIrq (s : State) (m : Fin 5) (b : Bool) : (s.withSpsrValid m b).lastIrq = s.lastIrq := rfl
@[simp] theorem State.withSpsrValid_drawCount (s : State) (m : Fin 5) (b : Bool) : (s.withSpsrValid m b).drawCount = s.drawCount := rfl
@[simp] theorem State.withSpsrValid_extCount (s : State) (m : Fin 5) (b : Bool) : (s.withSpsrValid m b).extCount = s.extCount := rfl

/-! `withIe` -/

@[simp] theorem State.withIe_params (s : State) (v : Half) : (s.withIe v).params = s.params := rfl
@[simp] theorem State.withIe_gpr (s : State) (v : Half) : (s.withIe v).gpr = s.gpr := rfl
@[simp] theorem State.withIe_pc (s : State) (v : Half) : (s.withIe v).pc = s.pc := rfl
@[simp] theorem State.withIe_cpsr (s : State) (v : Half) : (s.withIe v).cpsr = s.cpsr := rfl
@[simp] theorem State.withIe_spsr (s : State) (v : Half) : (s.withIe v).spsr = s.spsr := rfl
@[simp] theorem State.withIe_spsrValid (s : State) (v : Half) : (s.withIe v).spsrValid = s.spsrValid := rfl
@[simp] theorem State.withIe_ie (s : State) (v : Half) : (s.withIe v).ie = v := rfl
@[simp] theorem State.withIe_iflag (s : State) (v : Half) : (s.withIe v).iflag = s.iflag := rfl
@[simp] theorem State.withIe_waitcnt (s : State) (v : Half) : (s.withIe v).waitcnt = s.waitcnt := rfl
@[simp] theorem State.withIe_ime (s : State) (v : Half) : (s.withIe v).ime = s.ime := rfl
@[simp] theorem State.withIe_postflg (s : State) (v : Half) : (s.withIe v).postflg = s.postflg := rfl
@[simp] theorem State.withIe_timers (s : State) (v : Half) : (s.withIe v).timers = s.timers := rfl
@[simp] theorem State.withIe_dma (s : State) (v : Half) : (s.withIe v).dma = s.dma := rfl
@[simp] theorem State.withIe_bios (s : State) (v : Half) : (s.withIe v).bios = s.bios := rfl
@[simp] theorem State.withIe_ewram (s : State) (v : Half) : (s.withIe v).ewram = s.ewram := rfl
@[simp] theorem State.withIe_iwram (s : State) (v : Half) : (s.withIe v).iwram = s.iwram := rfl
@[simp] theorem State.withIe_rom (s : State) (v : Half) : (s.withIe v).rom = s.rom := rfl
@[simp] theorem State.withIe_extMem (s : State) (v : Half) : (s.withIe v).extMem = s.extMem := rfl
@[simp] theorem State.withIe_halted (s : State) (v : Half) : (s.withIe v).halted = s.halted := rfl
@[simp] theorem State.withIe_seqNext (s : State) (v : Half) : (s.withIe v).seqNext = s.seqNext := rfl
@[simp] theorem State.withIe_lastCost (s : State) (v : Half) : (s.withIe v).lastCost = s.lastCost := rfl
@[simp] theorem State.withIe_tally (s : State) (v : Half) : (s.withIe v).tally = s.tally := rfl
@[simp] theorem State.withIe_ir (s : State) (v : Half) : (s.withIe v).ir = s.ir := rfl
@[simp] theorem State.withIe_diag (s : State) (v : Half) : (s.withIe v).diag = s.diag := rfl
@[simp] theorem State.withIe_fatal (s : State) (v : Half) : (s.withIe v).fatal = s.fatal := rfl
@[simp] theorem State.withIe_cyclesTotal (s : State) (v : Half) : (s.withIe v).cyclesTotal = s.cyclesTotal := rfl
@[simp] theorem State.withIe_lastIrq (s : State) (v : Half) : (s.withIe v).lastIrq = s.lastIrq := rfl
@[simp] theorem State.withIe_drawCount (s : State) (v : Half) : (s.withIe v).drawCount = s.drawCount := rfl
@[simp] theorem State.withIe_extCount (s : State) (v : Half) : (s.withIe v).extCount = s.extCount := rfl

/-! `withIflag` -/

@[simp] theorem State.withIflag_params (s : State) (v : Half) : (s.withIflag v).params = s.params := rfl
@[simp] theorem State.withIflag_gpr (s : State) (v : Half) : (s.withIflag v).gpr = s.gpr := rfl
@[simp] theorem State.withIflag_pc (s : State) (v : Half) : (s.withIflag v).pc = s.pc := rfl
@[simp] theorem State.withIflag_cpsr (s : State) (v : Half) : (s.withIflag v).cpsr = s.cpsr := rfl
@[simp] theorem State.withIflag_spsr (s : State) (v : Half) : (s.withIflag v).spsr = s.spsr := rfl
@[simp] theorem State.withIflag_spsrValid (s : State) (v : Half) : (s.withIflag v).spsrValid = s.spsrValid := rfl
@[simp] theorem State.withIflag_ie (s : State) (v : Half) : (s.withIflag v).ie = s.ie := rfl
@[simp] theorem State.withIflag_iflag (s : State) (v : Half) : (s.withIflag v).iflag = v := rfl
@[simp] theorem State.withIflag_waitcnt (s : State) (v : Half) : (s.withIflag v).waitcnt = s.waitcnt := rfl
@[simp] theorem State.withIflag_ime (s : State) (v : Half) : (s.withIflag v).ime = s.ime := rfl
@[simp] theorem State.withIflag_postflg (s : State) (v : Half) : (s.withIflag v).postflg = s.postflg := rfl
@[simp] theorem State.withIflag_timers (s : State) (v : Half) : (s.withIflag v).timers = s.timers := rfl
@[simp] theorem State.withIflag_dma (s : State) (v : Half) : (s.withIflag v).dma = s.dma := rfl
@[simp] theorem State.withIflag_bios (s : State) (v : Half) : (s.withIflag v).bios = s.bios := rfl
@[simp] theorem State.withIflag_ewram (s : State) (v : Half) : (s.withIflag v).ewram = s.ewram := rfl
@[simp] theorem State.withIflag_iwram (s : State) (v : Half) : (s.withIflag v).iwram = s.iwram := rfl
@[simp] theorem State.withIflag_rom (s : State) (v : Half) : (s.withIflag v).rom = s.rom := rfl
@[simp] theorem State.withIflag_extMem (s : State) (v : Half) : (s.withIflag v).extMem = s.extMem := rfl
@[simp] theorem State.withIflag_halted (s : State) (v : Half) : (s.withIflag v).halted = s.halted := rfl
@[simp] theorem State.withIflag_seqNext (s : State) (v : Half) : (s.withIflag v).seqNext = s.seqNext := rfl
@[simp] theorem State.withIflag_lastCost (s : State) (v : Half) : (s.withIflag v).lastCost = s.lastCost := rfl
@[simp] theorem State.withIflag_tally (s : State) (v : Half) : (s.withIflag v).tally = s.tally := rfl
@[simp] theorem State.withIflag_ir (s : State) (v : Half) : (s.withIflag v).ir = s.ir := rfl
@[simp] theorem State.withIflag_diag (s : State) (v : Half) : (s.withIflag v).diag = s.diag := rfl
@[simp] theorem State.withIflag_fatal (s : State) (v : Half) : (s.withIflag v).fatal = s.fatal := rfl
@[simp] theorem State.withIflag_cyclesTotal (s : State) (v : Half) : (s.withIflag v).cyclesTotal = s.cyclesTotal := rfl
@[simp] theorem State.withIflag_lastIrq (s : State) (v : Half) : (s.withIflag v).lastIrq = s.lastIrq := rfl
@[simp] theorem State.withIflag_drawCount (s : State) (v : Half) : (s.withIflag v).drawCount = s.drawCount := rfl
@[simp] theorem State.withIflag_extCount (s : State) (v : Half) : (s.withIflag v).extCount = s.extCount := rfl

/-! `withWaitcnt` -/

@[simp] theorem State.withWaitcnt_params (s : State) (v : Half) : (s.withWaitcnt v).params = s.params := rfl
@[simp] theorem State.withWaitcnt_gpr (s : State) (v : Half) : (s.withWaitcnt v).gpr = s.gpr := rfl
@[simp] theorem State.withWaitcnt_pc (s : State) (v : Half) : (s.withWaitcnt v).pc = s.pc := rfl
@[simp] theorem State.withWaitcnt_cpsr (s : State) (v : Half) : (s.withWaitcnt v).cpsr = s.cpsr := rfl
@[simp] theorem State.withWaitcnt_spsr (s : State) (v : Half) : (s.withWaitcnt v).spsr = s.spsr := rfl
@[simp] theorem State.withWaitcnt_spsrValid (s : State) (v : Half) : (s.withWaitcnt v).spsrValid = s.spsrValid := rfl
@[simp] theorem State.withWaitcnt_ie (s : State) (v : Half) : (s.withWaitcnt v).ie = s.ie := rfl
@[simp] theorem State.withWaitcnt_iflag (s : State) (v : Half) : (s.withWaitcnt v).iflag = s.iflag := rfl
@[simp] theorem State.withWaitcnt_waitcnt (s : State) (v : Half) : (s.withWaitcnt v).waitcnt = v := rfl
@[simp] theorem State.withWaitcnt_ime (s : State) (v : Half) : (s.withWaitcnt v).ime = s.ime := rfl
@[simp] theorem State.withWaitcnt_postflg (s : State) (v : Half) : (s.withWaitcnt v).postflg = s.postflg := rfl
@[simp] theorem State.withWaitcnt_timers (s : State) (v : Half) : (s.withWaitcnt v).timers = s.timers := rfl
@[simp] theorem State.withWaitcnt_dma (s : State) (v : Half) : (s.withWaitcnt v).dma = s.dma := rfl
@[simp] theorem State.withWaitcnt_bios (s : State) (v : Half) : (s.withWaitcnt v).bios = s.bios := rfl
@[simp] theorem State.withWaitcnt_ewram (s : State) (v : Half) : (s.withWaitcnt v).ewram = s.ewram := rfl
@[simp] theorem State.withWaitcnt_iwram (s : State) (v : Half) : (s.withWaitcnt v).iwram = s.iwram := rfl
@[simp] theorem State.withWaitcnt_rom (s : State) (v : Half) : (s.withWaitcnt v).rom = s.rom := rfl
@[simp] theorem State.withWaitcnt_extMem (s : State) (v : Half) : (s.withWaitcnt v).extMem = s.extMem := rfl
@[simp] theorem State.withWaitcnt_halted (s : State) (v : Half) : (s.withWaitcnt v).halted = s.halted := rfl
@[simp] theorem State.withWaitcnt_seqNext (s : State) (v : Half) : (s.withWaitcnt v).seqNext = s.seqNext := rfl
@[simp] theorem State.withWaitcnt_lastCost (s : State) (v : Half) : (s.withWaitcnt v).lastCost = s.lastCost := rfl
@[simp] theorem State.withWaitcnt_tally (s : State) (v : Half) : (s.withWaitcnt v).tally = s.tally := rfl
@[simp] theorem State.withWaitcnt_ir (s : State) (v : Half) : (s.withWaitcnt v).ir = s.ir := rfl
@[simp] theorem State.withWaitcnt_diag (s : State) (v : Half) : (s.withWaitcnt v).diag = s.diag := rfl
@[simp] theorem State.withWaitcnt_fatal (s : State) (v : Half) : (s.withWaitcnt v).fatal = s.fatal := rfl
@[simp] theorem State.withWaitcnt_cyclesTotal (s : State) (v : Half) : (s.withWaitcnt v).cyclesTotal = s.cyclesTotal := rfl
@[simp] theorem State.withWaitcnt_lastIrq (s : State) (v : Half) : (s.withWaitcnt v).lastIrq = s.lastIrq := rfl
@[simp] theorem State.withWaitcnt_drawCount (s : State) (v : Half) : (s.withWaitcnt v).drawCount = s.drawCount := rfl
@[simp] theorem State.withWaitcnt_extCount (s : State) (v : Half) : (s.withWaitcnt v).extCount = s.extCount := rfl

/-! `withIme` -/

@[simp] theorem State.withIme_params (s : State) (v : Word) : (s.withIme v).params = s.params := rfl
@[simp] theorem State.withIme_gpr (s : State) (v : Word) : (s.withIme v).gpr = s.gpr := rfl
@[simp] theorem State.withIme_pc (s : State) (v : Word) : (s.withIme v).pc = s.pc := rfl
@[simp] theorem State.withIme_cpsr (s : State) (v : Word) : (s.withIme v).cpsr = s.cpsr := rfl
@[simp] theorem State.withIme_spsr (s : State) (v : Word) : (s.withIme v).spsr = s.spsr := rfl
@[simp] theorem State.withIme_spsrValid (s : State) (v : Word) : (s.withIme v).spsrValid = s.spsrValid := rfl
@[simp] theorem State.withIme_ie (s : State) (v : Word) : (s.withIme v).ie = s.ie := rfl
@[simp] theorem State.withIme_iflag (s : State) (v : Word) : (s.withIme v).iflag = s.iflag := rfl
@[simp] theorem State.withIme_waitcnt (s : State) (v : Word) : (s.withIme v).waitcnt = s.waitcnt := rfl
@[simp] theorem State.withIme_ime (s : State) (v : Word) : (s.withIme v).ime = v := rfl
@[simp] theorem State.withIme_postflg (s : State) (v : Word) : (s.withIme v).postflg = s.postflg := rfl
@[simp] theorem State.withIme_timers (s : State) (v : Word) : (s.withIme v).timers = s.timers := rfl
@[simp] theorem State.withIme_dma (s : State) (v : Word) : (s.withIme v).dma = s.dma := rfl
@[simp] theorem State.withIme_bios (s : State) (v : Word) : (s.withIme v).bios = s.bios := rfl
@[simp] theorem State.withIme_ewram (s : State) (v : Word) : (s.withIme v).ewram = s.ewram := rfl
@[simp] theorem State.withIme_iwram (s : State) (v : Word) : (s.withIme v).iwram = s.iwram := rfl
@[simp] theorem State.withIme_rom (s : State) (v : Word) : (s.withIme v).rom = s.rom := rfl
@[simp] theorem State.withIme_extMem (s : State) (v : Word) : (s.withIme v).extMem = s.extMem := rfl
@[simp] theorem State.withIme_halted (s : State) (v : Word) : (s.withIme v).halted = s.halted := rfl
@[simp] theorem State.withIme_seqNext (s : State) (v : Word) : (s.withIme v).seqNext = s.seqNext := rfl
@[simp] theorem State.withIme_lastCost (s : State) (v : Word) : (s.withIme v).lastCost = s.lastCost := rfl
@[simp] theorem State.withIme_tally (s : State) (v : Word) : (s.withIme v).tally = s.tally := rfl
@[simp] theorem State.withIme_ir (s : State) (v : Word) : (s.withIme v).ir = s.ir := rfl
@[simp] theorem State.withIme_diag (s : State) (v : Word) : (s.withIme v).diag = s.diag := rfl
@[simp] theorem State.withIme_fatal (s : State) (v : Word) : (s.withIme v).fatal = s.fatal := rfl
@[simp] theorem State.withIme_cyclesTotal (s : State) (v : Word) : (s.withIme v).cyclesTotal = s.cyclesTotal := rfl
@[simp] theorem State.withIme_lastIrq (s : State) (v : Word) : (s.withIme v).lastIrq = s.lastIrq := rfl
@[simp] theorem State.withIme_drawCount (s : State) (v : Word) : (s.withIme v).drawCount = s.drawCount := rfl
@[simp] theorem State.withIme_extCount (s : State) (v : Word) : (s.withIme v).extCount = s.extCount := rfl

/-! `withPostflg` -/

@[simp] theorem State.withPostflg_params (s : State) (v : Byte) : (s.withPostflg v).params = s.params := rfl
@[simp] theorem State.withPostflg_gpr (s : State) (v : Byte) : (s.withPostflg v).gpr = s.gpr := rfl
@[simp] theorem State.withPostflg_pc (s : State) (v : Byte) : (s.withPostflg v).pc = s.pc := rfl
@[simp] theorem State.withPostflg_cpsr (s : State) (v : Byte) : (s.withPostflg v).cpsr = s.cpsr := rfl
@[simp] theorem State.withPostflg_spsr (s : State) (v : Byte) : (s.withPostflg v).spsr = s.spsr := rfl
@[simp] theorem State.withPostflg_spsrValid (s : State) (v : Byte) : (s.withPostflg v).spsrValid = s.spsrValid := rfl
@[simp] theorem State.withPostflg_ie (s : State) (v : Byte) : (s.withPostflg v).ie = s.ie := rfl
@[simp] theorem State.withPostflg_iflag (s : State) (v : Byte) : (s.withPostflg v).iflag = s.iflag := rfl
@[simp] theorem State.withPostflg_waitcnt (s : State) (v : Byte) : (s.withPostflg v).waitcnt = s.waitcnt := rfl
@[simp] theorem State.withPostflg_ime (s : State) (v : Byte) : (s.withPostflg v).ime = s.ime := rfl
@[simp] theorem State.withPostflg_postflg (s : State) (v : Byte) : (s.withPostflg v).postflg = v := rfl
@[simp] theorem State.withPostflg_timers (s : State) (v : Byte) : (s.withPostflg v).timers = s.timers := rfl
@[simp] theorem State.withPostflg_dma (s : State) (v : Byte) : (s.withPostflg v).dma = s.dma := rfl
@[simp] theorem State.withPostflg_bios (s : State) (v : Byte) : (s.withPostflg v).bios = s.bios := rfl
@[simp] theorem State.withPostflg_ewram (s : State) (v : Byte) : (s.withPostflg v).ewram = s.ewram := rfl
@[simp] theorem State.withPostflg_iwram (s : State) (v : Byte) : (s.withPostflg v).iwram = s.iwram := rfl
@[simp] theorem State.withPostflg_rom (s : State) (v : Byte) : (s.withPostflg v).rom = s.rom := rfl
@[simp] theorem State.withPostflg_extMem (s : State) (v : Byte) : (s.withPostflg v).extMem = s.extMem := rfl
@[simp] theorem State.withPostflg_halted (s : State) (v : Byte) : (s.withPostflg v).halted = s.halted := rfl
@[simp] theorem State.withPostflg_seqNext (s : State) (v : Byte) : (s.withPostflg v).seqNext = s.seqNext := rfl
@[simp] theorem State.withPostflg_lastCost (s : State) (v : Byte) : (s.withPostflg v).lastCost = s.lastCost := rfl
@[simp] theorem State.withPostflg_tally (s : State) (v : Byte) : (s.withPostflg v).tally = s.tally := rfl
@[simp] theorem State.withPostflg_ir (s : State) (v : Byte) : (s.withPostflg v).ir = s.ir := rfl
@[simp] theorem State.withPostflg_diag (s : State) (v : Byte) : (s.withPostflg v).diag = s.diag := rfl
@[simp] theorem State.withPostflg_fatal (s : State) (v : Byte) : (s.withPostflg v).fatal = s.fatal := rfl
@[simp] theorem State.withPostflg_cyclesTotal (s : State) (v : Byte) : (s.withPostflg v).cyclesTotal = s.cyclesTotal := rfl
@[simp] theorem State.withPostflg_lastIrq (s : State) (v : Byte) : (s.withPostflg v).lastIrq = s.lastIrq := rfl
@[simp] theorem State.withPostflg_drawCount (s : State) (v : Byte) : (s.withPostflg v).drawCount = s.drawCount := rfl
@[simp] theorem State.withPostflg_extCount (s : State) (v : Byte) : (s.withPostflg v).extCount = s.extCount := rfl

/-! `withTimer` -/

@[simp] theorem State.withTimer_params (s : State) (k : Fin 4) (t : Timer) : (s.withTimer k t).params = s.params := rfl
@[simp] theorem State.withTimer_gpr (s : State) (k : Fin 4) (t : Timer) : (s.withTimer k t).gpr = s.gpr := rfl
@[simp] theorem State.withTimer_pc (s : State) (k : Fin 4) (t : Timer) : (s.withTimer k t).pc = s.pc := rfl
@[simp] theorem State.withTimer_cpsr (s : State) (k : Fin 4) (t : Timer) : (s.withTimer k t).cpsr = s.cpsr := rfl
@[simp] theorem State.withTimer_spsr (s : State) (k : Fin 4) (t : Timer) : (s.withTimer k t).spsr = s.spsr := rfl
@[simp] theorem State.withTimer_spsrValid (s : State) (k : Fin 4) (t : Timer) : (s.withTimer k t).spsrValid = s.spsrValid := rfl
@[simp] theorem State.withTimer_ie (s : State) (k : Fin 4) (t : Timer) : (s.withTimer k t).ie = s.ie := rfl
@[simp] theorem State.withTimer_iflag (s : State) (k : Fin 4) (t : Timer) : (s.withTimer k t).iflag = s.iflag := rfl
@[simp] theorem State.withTimer_waitcnt (s : State) (k : Fin 4) (t : Timer) : (s.withTimer k t).waitcnt = s.waitcnt := rfl
@[simp] theorem State.withTimer_ime (s : State) (k : Fin 4) (t : Timer) : (s.withTimer k t).ime = s.ime := rfl
@[simp] theorem State.withTimer_postflg (s : State) (k : Fin 4) (t : Timer) : (s.withTimer k t).postflg = s.postflg := rfl
@[simp] theorem State.withTimer_timers (s : State) (k : Fin 4) (t : Timer) : (s.withTimer k t).timers = s.timers.set k t := rfl
@[simp] theorem State.withTimer_dma (s : State) (k : Fin 4) (t : Timer) : (s.withTimer k t).dma = s.dma := rfl
@[simp] theorem State.withTimer_bios (s : State) (k : Fin 4) (t : Timer) : (s.withTimer k t).bios = s.bios := rfl
@[simp] theorem State.withTimer_ewram (s : State) (k : Fin 4) (t : Timer) : (s.withTimer k t).ewram = s.ewram := rfl
@[simp] theorem State.withTimer_iwram (s : State) (k : Fin 4) (t : Timer) : (s.withTimer k t).iwram = s.iwram := rfl
@[simp] theorem State.withTimer_rom (s : State) (k : Fin 4) (t : Timer) : (s.withTimer k t).rom = s.rom := rfl
@[simp] theorem State.withTimer_extMem (s : State) (k : Fin 4) (t : Timer) : (s.withTimer k t).extMem = s.extMem := rfl
@[simp] theorem State.withTimer_halted (s : State) (k : Fin 4) (t : Timer) : (s.withTimer k t).halted = s.halted := rfl
@[simp] theorem State.withTimer_seqNext (s : State) (k : Fin 4) (t : Timer) : (s.withTimer k t).seqNext = s.seqNext := rfl
@[simp] theorem State.withTimer_lastCost (s : State) (k : Fin 4) (t : Timer) : (s.withTimer k t).lastCost = s.lastCost := rfl
@[simp] theorem State.withTimer_tally (s : State) (k : Fin 4) (t : Timer) : (s.withTimer k t).tally = s.tally := rfl
@[simp] theorem State.withTimer_ir (s : State) (k : Fin 4) (t : Timer) : (s.withTimer k t).ir = s.ir := rfl
@[simp] theorem State.withTimer_diag (s : State) (k : Fin 4) (t : Timer) : (s.withTimer k t).diag = s.diag := rfl
@[simp] theorem State.withTimer_fatal (s : State) (k : Fin 4) (t : Timer) : (s.withTimer k t).fatal = s.fatal := rfl
@[simp] theorem State.withTimer_cyclesTotal (s : State) (k : Fin 4) (t : Timer) : (s.withTimer k t).cyclesTotal = s.cyclesTotal := rfl
@[simp] theorem State.withTimer_lastIrq (s : State) (k : Fin 4) (t : Timer) : (s.withTimer k t).lastIrq = s.lastIrq := rfl
@[simp] theorem State.withTimer_drawCount (s : State) (k : Fin 4) (t : Timer) : (s.withTimer k t).drawCount = s.drawCount := rfl
@[simp] theorem State.withTimer_extCount (s : State) (k : Fin 4) (t : Timer) : (s.withTimer k t).extCount = s.extCount := rfl

/-! `withDma` -/

@[simp] theorem State.withDma_params (s : State) (x : Fin 4) (c : DmaChannel) : (s.withDma x c).params = s.params := rfl
@[simp] theorem State.withDma_gpr (s : State) (x : Fin 4) (c : DmaChannel) : (s.withDma x c).gpr = s.gpr := rfl
@[simp] theorem State.withDma_pc (s : State) (x : Fin 4) (c : DmaChannel) : (s.withDma x c).pc = s.pc := rfl
@[simp] theorem State.withDma_cpsr (s : State) (x : Fin 4) (c : DmaChannel) : (s.withDma x c).cpsr = s.cpsr := rfl
@[simp] theorem State.withDma_spsr (s : State) (x : Fin 4) (c : DmaChannel) : (s.withDma x c).spsr = s.spsr := rfl
@[simp] theorem State.withDma_spsrValid (s : State) (x : Fin 4) (c : DmaChannel) : (s.withDma x c).spsrValid = s.spsrValid := rfl
@[simp] theorem State.withDma_ie (s : State) (x : Fin 4) (c : DmaChannel) : (s.withDma x c).ie = s.ie := rfl
@[simp] theorem State.withDma_iflag (s : State) (x : Fin 4) (c : DmaChannel) : (s.withDma x c).iflag = s.iflag := rfl
@[simp] theorem State.withDma_waitcnt (s : State) (x : Fin 4) (c : DmaChannel) : (s.withDma x c).waitcnt = s.waitcnt := rfl
@[simp] theorem State.withDma_ime (s : State) (x : Fin 4) (c : DmaChannel) : (s.withDma x c).ime = s.ime := rfl
@[simp] theorem State.withDma_postflg (s : State) (x : Fin 4) (c : DmaChannel) : (s.withDma x c).postflg = s.postflg := rfl
@[simp] theorem State.withDma_timers (s : State) (x : Fin 4) (c : DmaChannel) : (s.withDma x c).timers = s.timers := rfl
@[simp] theorem State.withDma_dma (s : State) (x : Fin 4) (c : DmaChannel) : (s.withDma x c).dma = s.dma.set x c := rfl
@[simp] theorem State.withDma_bios (s : State) (x : Fin 4) (c : DmaChannel) : (s.withDma x c).bios = s.bios := rfl
@[simp] theorem State.withDma_ewram (s : State) (x : Fin 4) (c : DmaChannel) : (s.withDma x c).ewram = s.ewram := rfl
@[simp] theorem State.withDma_iwram (s : State) (x : Fin 4) (c : DmaChannel) : (s.withDma x c).iwram = s.iwram := rfl
@[simp] theorem State.withDma_rom (s : State) (x : Fin 4) (c : DmaChannel) : (s.withDma x c).rom = s.rom := rfl
@[simp] theorem State.withDma_extMem (s : State) (x : Fin 4) (c : DmaChannel) : (s.withDma x c).extMem = s.extMem := rfl
@[simp] theorem State.withDma_halted (s : State) (x : Fin 4) (c : DmaChannel) : (s.withDma x c).halted = s.halted := rfl
@[simp] theorem State.withDma_seqNext (s : State) (x : Fin 4) (c : DmaChannel) : (s.withDma x c).seqNext = s.seqNext := rfl
@[simp] theorem State.withDma_lastCost (s : State) (x : Fin 4) (c : DmaChannel) : (s.withDma x c).lastCost = s.lastCost := rfl
@[simp] theorem State.withDma_tally (s : State) (x : Fin 4) (c : DmaChannel) : (s.withDma x c).tally = s.tally := rfl
@[simp] theorem State.withDma_ir (s : State) (x : Fin 4) (c : DmaChannel) : (s.withDma x c).ir = s.ir := rfl
@[simp] theorem State.withDma_diag (s : State) (x : Fin 4) (c : DmaChannel) : (s.withDma x c).diag = s.diag := rfl
@[simp] theorem State.withDma_fatal (s : State) (x : Fin 4) (c : DmaChannel) : (s.withDma x c).fatal = s.fatal := rfl
@[simp] theorem State.withDma_cyclesTotal (s : State) (x : Fin 4) (c : DmaChannel) : (s.withDma x c).cyclesTotal = s.cyclesTotal := rfl
@[simp] theorem State.withDma_lastIrq (s : State) (x : Fin 4) (c : DmaChannel) : (s.withDma x c).lastIrq = s.lastIrq := rfl
@[simp] theorem State.withDma_drawCount (s : State) (x : Fin 4) (c : DmaChannel) : (s.withDma x c).drawCount = s.drawCount := rfl
@[simp] theorem State.withDma_extCount (s : State) (x : Fin 4) (c : DmaChannel) : (s.withDma x c).extCount = s.extCount := rfl

/-! `withEwram` -/

@[simp] theorem State.withEwram_params (s : State) (m : Memory) : (s.withEwram m).params = s.params := rfl
@[simp] theorem State.withEwram_gpr (s : State) (m : Memory) : (s.withEwram m).gpr = s.gpr := rfl
@[simp] theorem State.withEwram_pc (s : State) (m : Memory) : (s.withEwram m).pc = s.pc := rfl
@[simp] theorem State.withEwram_cpsr (s : State) (m : Memory) : (s.withEwram m).cpsr = s.cpsr := rfl
@[simp] theorem State.withEwram_spsr (s : State) (m : Memory) : (s.withEwram m).spsr = s.spsr := rfl
@[simp] theorem State.withEwram_spsrValid (s : State) (m : Memory) : (s.withEwram m).spsrValid = s.spsrValid := rfl
@[simp] theorem State.withEwram_ie (s : State) (m : Memory) : (s.withEwram m).ie = s.ie := rfl
@[simp] theorem State.withEwram_iflag (s : State) (m : Memory) : (s.withEwram m).iflag = s.iflag := rfl
@[simp] theorem State.withEwram_waitcnt (s : State) (m : Memory) : (s.withEwram m).waitcnt = s.waitcnt := rfl
@[simp] theorem State.withEwram_ime (s : State) (m : Memory) : (s.withEwram m).ime = s.ime := rfl
@[simp] theorem State.withEwram_postflg (s : State) (m : Memory) : (s.withEwram m).postflg = s.postflg := rfl
@[simp] theorem State.withEwram_timers (s : State) (m : Memory) : (s.withEwram m).timers = s.timers := rfl
@[simp] theorem State.withEwram_dma (s : State) (m : Memory) : (s.withEwram m).dma = s.dma := rfl
@[simp] theorem State.withEwram_bios (s : State) (m : Memory) : (s.withEwram m).bios = s.bios := rfl
@[simp] theorem State.withEwram_ewram (s : State) (m : Memory) : (s.withEwram m).ewram = m := rfl
@[simp] theorem State.withEwram_iwram (s : State) (m : Memory) : (s.withEwram m).iwram = s.iwram := rfl
@[simp] theorem State.withEwram_rom (s : State) (m : Memory) : (s.withEwram m).rom = s.rom := rfl
@[simp] theorem State.withEwram_extMem (s : State) (m : Memory) : (s.withEwram m).extMem = s.extMem := rfl
@[simp] theorem State.withEwram_halted (s : State) (m : Memory) : (s.withEwram m).halted = s.halted := rfl
@[simp] theorem State.withEwram_seqNext (s : State) (m : Memory) : (s.withEwram m).seqNext = s.seqNext := rfl
@[simp] theorem State.withEwram_lastCost (s : State) (m : Memory) : (s.withEwram m).lastCost = s.lastCost := rfl
@[simp] theorem State.withEwram_tally (s : State) (m : Memory) : (s.withEwram m).tally = s.tally := rfl
@[simp] theorem State.withEwram_ir (s : State) (m : Memory) : (s.withEwram m).ir = s.ir := rfl
@[simp] theorem State.withEwram_diag (s : State) (m : Memory) : (s.withEwram m).diag = s.diag := rfl
@[simp] theorem State.withEwram_fatal (s : State) (m : Memory) : (s.withEwram m).fatal = s.fatal := rfl
@[simp] theorem State.withEwram_cyclesTotal (s : State) (m : Memory) : (s.withEwram m).cyclesTotal = s.cyclesTotal := rfl
@[simp] theorem State.withEwram_lastIrq (s : State) (m : Memory) : (s.withEwram m).lastIrq = s.lastIrq := rfl
@[simp] theorem State.withEwram_drawCount (s : State) (m : Memory) : (s.withEwram m).drawCount = s.drawCount := rfl
@[simp] theorem State.withEwram_extCount (s : State) (m : Memory) : (s.withEwram m).extCount = s.extCount := rfl

/-! `withIwram` -/

@[simp] theorem State.withIwram_params (s : State) (m : Memory) : (s.withIwram m).params = s.params := rfl
@[simp] theorem State.withIwram_gpr (s : State) (m : Memory) : (s.withIwram m).gpr = s.gpr := rfl
@[simp] theorem State.withIwram_pc (s : State) (m : Memory) : (s.withIwram m).pc = s.pc := rfl
@[simp] theorem State.withIwram_cpsr (s : State) (m : Memory) : (s.withIwram m).cpsr = s.cpsr := rfl
@[simp] theorem State.withIwram_spsr (s : State) (m : Memory) : (s.withIwram m).spsr = s.spsr := rfl
@[simp] theorem State.withIwram_spsrValid (s : State) (m : Memory) : (s.withIwram m).spsrValid = s.spsrValid := rfl
@[simp] theorem State.withIwram_ie (s : State) (m : Memory) : (s.withIwram m).ie = s.ie := rfl
@[simp] theorem State.withIwram_iflag (s : State) (m : Memory) : (s.withIwram m).iflag = s.iflag := rfl
@[simp] theorem State.withIwram_waitcnt (s : State) (m : Memory) : (s.withIwram m).waitcnt = s.waitcnt := rfl
@[simp] theorem State.withIwram_ime (s : State) (m : Memory) : (s.withIwram m).ime = s.ime := rfl
@[simp] theorem State.withIwram_postflg (s : State) (m : Memory) : (s.withIwram m).postflg = s.postflg := rfl
@[simp] theorem State.withIwram_timers (s : State) (m : Memory) : (s.withIwram m).timers = s.timers := rfl
@[simp] theorem State.withIwram_dma (s : State) (m : Memory) : (s.withIwram m).dma = s.dma := rfl
@[simp] theorem State.withIwram_bios (s : State) (m : Memory) : (s.withIwram m).bios = s.bios := rfl
@[simp] theorem State.withIwram_ewram (s : State) (m : Memory) : (s.withIwram m).ewram = s.ewram := rfl
@[simp] theorem State.withIwram_iwram (s : State) (m : Memory) : (s.withIwram m).iwram = m := rfl
@[simp] theorem State.withIwram_rom (s : State) (m : Memory) : (s.withIwram m).rom = s.rom := rfl
@[simp] theorem State.withIwram_extMem (s : State) (m : Memory) : (s.withIwram m).extMem = s.extMem := rfl
@[simp] theorem State.withIwram_halted (s : State) (m : Memory) : (s.withIwram m).halted = s.halted := rfl
@[simp] theorem State.withIwram_seqNext (s : State) (m : Memory) : (s.withIwram m).seqNext = s.seqNext := rfl
@[simp] theorem State.withIwram_lastCost (s : State) (m : Memory) : (s.withIwram m).lastCost = s.lastCost := rfl
@[simp] theorem State.withIwram_tally (s : State) (m : Memory) : (s.withIwram m).tally = s.tally := rfl
@[simp] theorem State.withIwram_ir (s : State) (m : Memory) : (s.withIwram m).ir = s.ir := rfl
@[simp] theorem State.withIwram_diag (s : State) (m : Memory) : (s.withIwram m).diag = s.diag := rfl
@[simp] theorem State.withIwram_fatal (s : State) (m : Memory) : (s.withIwram m).fatal = s.fatal := rfl
@[simp] theorem State.withIwram_cyclesTotal (s : State) (m : Memory) : (s.withIwram m).cyclesTotal = s.cyclesTotal := rfl
@[simp] theorem State.withIwram_lastIrq (s : State) (m : Memory) : (s.withIwram m).lastIrq = s.lastIrq := rfl
@[simp] theorem State.withIwram_drawCount (s : State) (m : Memory) : (s.withIwram m).drawCount = s.drawCount := rfl
@[simp] theorem State.withIwram_extCount (s : State) (m : Memory) : (s.withIwram m).extCount = s.extCount := rfl

/-! `withExtMem` -/

@[simp] theorem State.withExtMem_params (s : State) (m : Memory) : (s.withExtMem m).params = s.params := rfl
@[simp] theorem State.withExtMem_gpr (s : State) (m : Memory) : (s.withExtMem m).gpr = s.gpr := rfl
@[simp] theorem State.withExtMem_pc (s : State) (m : Memory) : (s.withExtMem m).pc = s.pc := rfl
@[simp] theorem State.withExtMem_cpsr (s : State) (m : Memory) : (s.withExtMem m).cpsr = s.cpsr := rfl
@[simp] theorem State.withExtMem_spsr (s : State) (m : Memory) : (s.withExtMem m).spsr = s.spsr := rfl
@[simp] theorem State.withExtMem_spsrValid (s : State) (m : Memory) : (s.withExtMem m).spsrValid = s.spsrValid := rfl
@[simp] theorem State.withExtMem_ie (s : State) (m : Memory) : (s.withExtMem m).ie = s.ie := rfl
@[simp] theorem State.withExtMem_iflag (s : State) (m : Memory) : (s.withExtMem m).iflag = s.iflag := rfl
@[simp] theorem State.withExtMem_waitcnt (s : State) (m : Memory) : (s.withExtMem m).waitcnt = s.waitcnt := rfl
@[simp] theorem State.withExtMem_ime (s : State) (m : Memory) : (s.withExtMem m).ime = s.ime := rfl
@[simp] theorem State.withExtMem_postflg (s : State) (m : Memory) : (s.withExtMem m).postflg = s.postflg := rfl
@[simp] theorem State.withExtMem_timers (s : State) (m : Memory) : (s.withExtMem m).timers = s.timers := rfl
@[simp] theorem State.withExtMem_dma (s : State) (m : Memory) : (s.withExtMem m).dma = s.dma := rfl
@[simp] theorem State.withExtMem_bios (s : State) (m : Memory) : (s.withExtMem m).bios = s.bios := rfl
@[simp] theorem State.withExtMem_ewram (s : State) (m : Memory) : (s.withExtMem m).ewram = s.ewram := rfl
@[simp] theorem State.withExtMem_iwram (s : State) (m : Memory) : (s.withExtMem m).iwram = s.iwram := rfl
@[simp] theorem State.withExtMem_rom (s : State) (m : Memory) : (s.withExtMem m).rom = s.rom := rfl
@[simp] theorem State.withExtMem_extMem (s : State) (m : Memory) : (s.withExtMem m).extMem = m := rfl
@[simp] theorem State.withExtMem_halted (s : State) (m : Memory) : (s.withExtMem m).halted = s.halted := rfl
@[simp] theorem State.withExtMem_seqNext (s : State) (m : Memory) : (s.withExtMem m).seqNext = s.seqNext := rfl
@[simp] theorem State.withExtMem_lastCost (s : State) (m : Memory) : (s.withExtMem m).lastCost = s.lastCost := rfl
@[simp] theorem State.withExtMem_tally (s : State) (m : Memory) : (s.withExtMem m).tally = s.tally := rfl
@[simp] theorem State.withExtMem_ir (s : State) (m : Memory) : (s.withExtMem m).ir = s.ir := rfl
@[simp] theorem State.withExtMem_diag (s : State) (m : Memory) : (s.withExtMem m).diag = s.diag := rfl
@[simp] theorem State.withExtMem_fatal (s : State) (m : Memory) : (s.withExtMem m).fatal = s.fatal := rfl
@[simp] theorem State.withExtMem_cyclesTotal (s : State) (m : Memory) : (s.withExtMem m).cyclesTotal = s.cyclesTotal := rfl
@[simp] theorem State.withExtMem_lastIrq (s : State) (m : Memory) : (s.withExtMem m).lastIrq = s.lastIrq := rfl
@[simp] theorem State.withExtMem_drawCount (s : State) (m : Memory) : (s.withExtMem m).drawCount = s.drawCount := rfl
@[simp] theorem State.withExtMem_extCount (s : State) (m : Memory) : (s.withExtMem m).extCount = s.extCount := rfl

/-! `withHalted` -/

@[simp] theorem State.withHalted_params (s : State) (b : Bool) : (s.withHalted b).params = s.params := rfl
@[simp] theorem State.withHalted_gpr (s : State) (b : Bool) : (s.withHalted b).gpr = s.gpr := rfl
@[simp] theorem State.withHalted_pc (s : State) (b : Bool) : (s.withHalted b).pc = s.pc := rfl
@[simp] theorem State.withHalted_cpsr (s : State) (b : Bool) : (s.withHalted b).cpsr = s.cpsr := rfl
@[simp] theorem State.withHalted_spsr (s : State) (b : Bool) : (s.withHalted b).spsr = s.spsr := rfl
@[simp] theorem State.withHalted_spsrValid (s : State) (b : Bool) : (s.withHalted b).spsrValid = s.spsrValid := rfl
@[simp] theorem State.withHalted_ie (s : State) (b : Bool) : (s.withHalted b).ie = s.ie := rfl
@[simp] theorem State.withHalted_iflag (s : State) (b : Bool) : (s.withHalted b).iflag = s.iflag := rfl
@[simp] theorem State.withHalted_waitcnt (s : State) (b : Bool) : (s.withHalted b).waitcnt = s.waitcnt := rfl
@[simp] theorem State.withHalted_ime (s : State) (b : Bool) : (s.withHalted b).ime = s.ime := rfl
@[simp] theorem State.withHalted_postflg (s : State) (b : Bool) : (s.withHalted b).postflg = s.postflg := rfl
@[simp] theorem State.withHalted_timers (s : State) (b : Bool) : (s.withHalted b).timers = s.timers := rfl
@[simp] theorem State.withHalted_dma (s : State) (b : Bool) : (s.withHalted b).dma = s.dma := rfl
@[simp] theorem State.withHalted_bios (s : State) (b : Bool) : (s.withHalted b).bios = s.bios := rfl
@[simp] theorem State.withHalted_ewram (s : State) (b : Bool) : (s.withHalted b).ewram = s.ewram := rfl
@[simp] theorem State.withHalted_iwram (s : State) (b : Bool) : (s.withHalted b).iwram = s.iwram := rfl
@[simp] theorem State.withHalted_rom (s : State) (b : Bool) : (s.withHalted b).rom = s.rom := rfl
@[simp] theorem State.withHalted_extMem (s : State) (b : Bool) : (s.withHalted b).extMem = s.extMem := rfl
@[simp] theorem State.withHalted_halted (s : State) (b : Bool) : (s.withHalted b).halted = b := rfl
@[simp] theorem State.withHalted_seqNext (s : State) (b : Bool) : (s.withHalted b).seqNext = s.seqNext := rfl
@[simp] theorem State.withHalted_lastCost (s : State) (b : Bool) : (s.withHalted b).lastCost = s.lastCost := rfl
@[simp] theorem State.withHalted_tally (s : State) (b : Bool) : (s.withHalted b).tally = s.tally := rfl
@[simp] theorem State.withHalted_ir (s : State) (b : Bool) : (s.withHalted b).ir = s.ir := rfl
@[simp] theorem State.withHalted_diag (s : State) (b : Bool) : (s.withHalted b).diag = s.diag := rfl
@[simp] theorem State.withHalted_fatal (s : State) (b : Bool) : (s.withHalted b).fatal = s.fatal := rfl
@[simp] theorem State.withHalted_cyclesTotal (s : State) (b : Bool) : (s.withHalted b).cyclesTotal = s.cyclesTotal := rfl
@[simp] theorem State.withHalted_lastIrq (s : State) (b : Bool) : (s.withHalted b).lastIrq = s.lastIrq := rfl
@[simp] theorem State.withHalted_drawCount (s : State) (b : Bool) : (s.withHalted b).drawCount = s.drawCount := rfl
@[simp] theorem State.withHalted_extCount (s : State) (b : Bool) : (s.withHalted b).extCount = s.extCount := rfl

/-! `withSeqNext` -/

@[simp] theorem State.withSeqNext_params (s : State) (a : Option Word) : (s.withSeqNext a).params = s.params := rfl
@[simp] theorem State.withSeqNext_gpr (s : State) (a : Option Word) : (s.withSeqNext a).gpr = s.gpr := rfl
@[simp] theorem State.withSeqNext_pc (s : State) (a : Option Word) : (s.withSeqNext a).pc = s.pc := rfl
@[simp] theorem State.withSeqNext_cpsr (s : State) (a : Option Word) : (s.withSeqNext a).cpsr = s.cpsr := rfl
@[simp] theorem State.withSeqNext_spsr (s : State) (a : Option Word) : (s.withSeqNext a).spsr = s.spsr := rfl
@[simp] theorem State.withSeqNext_spsrValid (s : State) (a : Option Word) : (s.withSeqNext a).spsrValid = s.spsrValid := rfl
@[simp] theorem State.withSeqNext_ie (s : State) (a : Option Word) : (s.withSeqNext a).ie = s.ie := rfl
@[simp] theorem State.withSeqNext_iflag (s : State) (a : Option Word) : (s.withSeqNext a).iflag = s.iflag := rfl
@[simp] theorem State.withSeqNext_waitcnt (s : State) (a : Option Word) : (s.withSeqNext a).waitcnt = s.waitcnt := rfl
@[simp] theorem State.withSeqNext_ime (s : State) (a : Option Word) : (s.withSeqNext a).ime = s.ime := rfl
@[simp] theorem State.withSeqNext_postflg (s : State) (a : Option Word) : (s.withSeqNext a).postflg = s.postflg := rfl
@[simp] theorem State.withSeqNext_timers (s : State) (a : Option Word) : (s.withSeqNext a).timers = s.timers := rfl
@[simp] theorem State.withSeqNext_dma (s : State) (a : Option Word) : (s.withSeqNext a).dma = s.dma := rfl
@[simp] theorem State.withSeqNext_bios (s : State) (a : Option Word) : (s.withSeqNext a).bios = s.bios := rfl
@[simp] theorem State.withSeqNext_ewram (s : State) (a : Option Word) : (s.withSeqNext a).ewram = s.ewram := rfl
@[simp] theorem State.withSeqNext_iwram (s : State) (a : Option Word) : (s.withSeqNext a).iwram = s.iwram := rfl
@[simp] theorem State.withSeqNext_rom (s : State) (a : Option Word) : (s.withSeqNext a).rom = s.rom := rfl
@[simp] theorem State.withSeqNext_extMem (s : State) (a : Option Word) : (s.withSeqNext a).extMem = s.extMem := rfl
@[simp] theorem State.withSeqNext_halted (s : State) (a : Option Word) : (s.withSeqNext a).halted = s.halted := rfl
@[simp] theorem State.withSeqNext_seqNext (s : State) (a : Option Word) : (s.withSeqNext a).seqNext = a := rfl
@[simp] theorem State.withSeqNext_lastCost (s : State) (a : Option Word) : (s.withSeqNext a).lastCost = s.lastCost := rfl
@[simp] theorem State.withSeqNext_tally (s : State) (a : Option Word) : (s.withSeqNext a).tally = s.tally := rfl
@[simp] theorem State.withSeqNext_ir (s : State) (a : Option Word) : (s.withSeqNext a).ir = s.ir := rfl
@[simp] theorem State.withSeqNext_diag (s : State) (a : Option Word) : (s.withSeqNext a).diag = s.diag := rfl
@[simp] theorem State.withSeqNext_fatal (s : State) (a : Option Word) : (s.withSeqNext a).fatal = s.fatal := rfl
@[simp] theorem State.withSeqNext_cyclesTotal (s : State) (a : Option Word) : (s.withSeqNext a).cyclesTotal = s.cyclesTotal := rfl
@[simp] theorem State.withSeqNext_lastIrq (s : State) (a : Option Word) : (s.withSeqNext a).lastIrq = s.lastIrq := rfl
@[simp] theorem State.withSeqNext_drawCount (s : State) (a : Option Word) : (s.withSeqNext a).drawCount = s.drawCount := rfl
@[simp] theorem State.withSeqNext_extCount (s : State) (a : Option Word) : (s.withSeqNext a).extCount = s.extCount := rfl

/-! `withLastCost` -/

@[simp] theorem State.withLastCost_params (s : State) (c : Nat) : (s.withLastCost c).params = s.params := rfl
@[simp] theorem State.withLastCost_gpr (s : State) (c : Nat) : (s.withLastCost c).gpr = s.gpr := rfl
@[simp] theorem State.withLastCost_pc (s : State) (c : Nat) : (s.withLastCost c).pc = s.pc := rfl
@[simp] theorem State.withLastCost_cpsr (s : State) (c : Nat) : (s.withLastCost c).cpsr = s.cpsr := rfl
@[simp] theorem State.withLastCost_spsr (s : State) (c : Nat) : (s.withLastCost c).spsr = s.spsr := rfl
@[simp] theorem State.withLastCost_spsrValid (s : State) (c : Nat) : (s.withLastCost c).spsrValid = s.spsrValid := rfl
@[simp] theorem State.withLastCost_ie (s : State) (c : Nat) : (s.withLastCost c).ie = s.ie := rfl
@[simp] theorem State.withLastCost_iflag (s : State) (c : Nat) : (s.withLastCost c).iflag = s.iflag := rfl
@[simp] theorem State.withLastCost_waitcnt (s : State) (c : Nat) : (s.withLastCost c).waitcnt = s.waitcnt := rfl
@[simp] theorem State.withLastCost_ime (s : State) (c : Nat) : (s.withLastCost c).ime = s.ime := rfl
@[simp] theorem State.withLastCost_postflg (s : State) (c : Nat) : (s.withLastCost c).postflg = s.postflg := rfl
@[simp] theorem State.withLastCost_timers (s : State) (c : Nat) : (s.withLastCost c).timers = s.timers := rfl
@[simp] theorem State.withLastCost_dma (s : State) (c : Nat) : (s.withLastCost c).dma = s.dma := rfl
@[simp] theorem State.withLastCost_bios (s : State) (c : Nat) : (s.withLastCost c).bios = s.bios := rfl
@[simp] theorem State.withLastCost_ewram (s : State) (c : Nat) : (s.withLastCost c).ewram = s.ewram := rfl
@[simp] theorem State.withLastCost_iwram (s : State) (c : Nat) : (s.withLastCost c).iwram = s.iwram := rfl
@[simp] theorem State.withLastCost_rom (s : State) (c : Nat) : (s.withLastCost c).rom = s.rom := rfl
@[simp] theorem State.withLastCost_extMem (s : State) (c : Nat) : (s.withLastCost c).extMem = s.extMem := rfl
@[simp] theorem State.withLastCost_halted (s : State) (c : Nat) : (s.withLastCost c).halted = s.halted := rfl
@[simp] theorem State.withLastCost_seqNext (s : State) (c : Nat) : (s.withLastCost c).seqNext = s.seqNext := rfl
@[simp] theorem State.withLastCost_lastCost (s : State) (c : Nat) : (s.withLastCost c).lastCost = c := rfl
@[simp] theorem State.withLastCost_tally (s : State) (c : Nat) : (s.withLastCost c).tally = s.tally := rfl
@[simp] theorem State.withLastCost_ir (s : State) (c : Nat) : (s.withLastCost c).ir = s.ir := rfl
@[simp] theorem State.withLastCost_diag (s : State) (c : Nat) : (s.withLastCost c).diag = s.diag := rfl
@[simp] theorem State.withLastCost_fatal (s : State) (c : Nat) : (s.withLastCost c).fatal = s.fatal := rfl
@[simp] theorem State.withLastCost_cyclesTotal (s : State) (c : Nat) : (s.withLastCost c).cyclesTotal = s.cyclesTotal := rfl
@[simp] theorem State.withLastCost_lastIrq (s : State) (c : Nat) : (s.withLastCost c).lastIrq = s.lastIrq := rfl
@[simp] theorem State.withLastCost_drawCount (s : State) (c : Nat) : (s.withLastCost c).drawCount = s.drawCount := rfl
@[simp] theorem State.withLastCost_extCount (s : State) (c : Nat) : (s.withLastCost c).extCount = s.extCount := rfl

/-! `withTally` -/

@[simp] theorem State.withTally_params (s : State) (n : Nat) : (s.withTally n).params = s.params := rfl
@[simp] theorem State.withTally_gpr (s : State) (n : Nat) : (s.withTally n).gpr = s.gpr := rfl
@[simp] theorem State.withTally_pc (s : State) (n : Nat) : (s.withTally n).pc = s.pc := rfl
@[simp] theorem State.withTally_cpsr (s : State) (n : Nat) : (s.withTally n).cpsr = s.cpsr := rfl
@[simp] theorem State.withTally_spsr (s : State) (n : Nat) : (s.withTally n).spsr = s.spsr := rfl
@[simp] theorem State.withTally_spsrValid (s : State) (n : Nat) : (s.withTally n).spsrValid = s.spsrValid := rfl
@[simp] theorem State.withTally_ie (s : State) (n : Nat) : (s.withTally n).ie = s.ie := rfl
@[simp] theorem State.withTally_iflag (s : State) (n : Nat) : (s.withTally n).iflag = s.iflag := rfl
@[simp] theorem State.withTally_waitcnt (s : State) (n : Nat) : (s.withTally n).waitcnt = s.waitcnt := rfl
@[simp] theorem State.withTally_ime (s : State) (n : Nat) : (s.withTally n).ime = s.ime := rfl
@[simp] theorem State.withTally_postflg (s : State) (n : Nat) : (s.withTally n).postflg = s.postflg := rfl
@[simp] theorem State.withTally_timers (s : State) (n : Nat) : (s.withTally n).timers = s.timers := rfl
@[simp] theorem State.withTally_dma (s : State) (n : Nat) : (s.withTally n).dma = s.dma := rfl
@[simp] theorem State.withTally_bios (s : State) (n : Nat) : (s.withTally n).bios = s.bios := rfl
@[simp] theorem State.withTally_ewram (s : State) (n : Nat) : (s.withTally n).ewram = s.ewram := rfl
@[simp] theorem State.withTally_iwram (s : State) (n : Nat) : (s.withTally n).iwram = s.iwram := rfl
@[simp] theorem State.withTally_rom (s : State) (n : Nat) : (s.withTally n).rom = s.rom := rfl
@[simp] theorem State.withTally_extMem (s : State) (n : Nat) : (s.withTally n).extMem = s.extMem := rfl
@[simp] theorem State.withTally_halted (s : State) (n : Nat) : (s.withTally n).halted = s.halted := rfl
@[simp] theorem State.withTally_seqNext (s : State) (n : Nat) : (s.withTally n).seqNext = s.seqNext := rfl
@[simp] theorem State.withTally_lastCost (s : State) (n : Nat) : (s.withTally n).lastCost = s.lastCost := rfl
@[simp] theorem State.withTally_tally (s : State) (n : Nat) : (s.withTally n).tally = n := rfl
@[simp] theorem State.withTally_ir (s : State) (n : Nat) : (s.withTally n).ir = s.ir := rfl
@[simp] theorem State.withTally_diag (s : State) (n : Nat) : (s.withTally n).diag = s.diag := rfl
@[simp] theorem State.withTally_fatal (s : State) (n : Nat) : (s.withTally n).fatal = s.fatal := rfl
@[simp] theorem State.withTally_cyclesTotal (s : State) (n : Nat) : (s.withTally n).cyclesTotal = s.cyclesTotal := rfl
@[simp] theorem State.withTally_lastIrq (s : State) (n : Nat) : (s.withTally n).lastIrq = s.lastIrq := rfl
@[simp] theorem State.withTally_drawCount (s : State) (n : Nat) : (s.withTally n).drawCount = s.drawCount := rfl
@[simp] theorem State.withTally_extCount (s : State) (n : Nat) : (s.withTally n).extCount = s.extCount := rfl

/-! `withIr` -/

@[simp] theorem State.withIr_params (s : State) (w : Word) : (s.withIr w).params = s.params := rfl
@[simp] theorem State.withIr_gpr (s : State) (w : Word) : (s.withIr w).gpr = s.gpr := rfl
@[simp] theorem State.withIr_pc (s : State) (w : Word) : (s.withIr w).pc = s.pc := rfl
@[simp] theorem State.withIr_cpsr (s : State) (w : Word) : (s.withIr w).cpsr = s.cpsr := rfl
@[simp] theorem State.withIr_spsr (s : State) (w : Word) : (s.withIr w).spsr = s.spsr := rfl
@[simp] theorem State.withIr_spsrValid (s : State) (w : Word) : (s.withIr w).spsrValid = s.spsrValid := rfl
@[simp] theorem State.withIr_ie (s : State) (w : Word) : (s.withIr w).ie = s.ie := rfl
@[simp] theorem State.withIr_iflag (s : State) (w : Word) : (s.withIr w).iflag = s.iflag := rfl
@[simp] theorem State.withIr_waitcnt (s : State) (w : Word) : (s.withIr w).waitcnt = s.waitcnt := rfl
@[simp] theorem State.withIr_ime (s : State) (w : Word) : (s.withIr w).ime = s.ime := rfl
@[simp] theorem State.withIr_postflg (s : State) (w : Word) : (s.withIr w).postflg = s.postflg := rfl
@[simp] theorem State.withIr_timers (s : State) (w : Word) : (s.withIr w).timers = s.timers := rfl
@[simp] theorem State.withIr_dma (s : State) (w : Word) : (s.withIr w).dma = s.dma := rfl
@[simp] theorem State.withIr_bios (s : State) (w : Word) : (s.withIr w).bios = s.bios := rfl
@[simp] theorem State.withIr_ewram (s : State) (w : Word) : (s.withIr w).ewram = s.ewram := rfl
@[simp] theorem State.withIr_iwram (s : State) (w : Word) : (s.withIr w).iwram = s.iwram := rfl
@[simp] theorem State.withIr_rom (s : State) (w : Word) : (s.withIr w).rom = s.rom := rfl
@[simp] theorem State.withIr_extMem (s : State) (w : Word) : (s.withIr w).extMem = s.extMem := rfl
@[simp] theorem State.withIr_halted (s : State) (w : Word) : (s.withIr w).halted = s.halted := rfl
@[simp] theorem State.withIr_seqNext (s : State) (w : Word) : (s.withIr w).seqNext = s.seqNext := rfl
@[simp] theorem State.withIr_lastCost (s : State) (w : Word) : (s.withIr w).lastCost = s.lastCost := rfl
@[simp] theorem State.withIr_tally (s : State) (w : Word) : (s.withIr w).tally = s.tally := rfl
@[simp] theorem State.withIr_ir (s : State) (w : Word) : (s.withIr w).ir = w := rfl
@[simp] theorem State.withIr_diag (s : State) (w : Word) : (s.withIr w).diag = s.diag := rfl
@[simp] theorem State.withIr_fatal (s : State) (w : Word) : (s.withIr w).fatal = s.fatal := rfl
@[simp] theorem State.withIr_cyclesTotal (s : State) (w : Word) : (s.withIr w).cyclesTotal = s.cyclesTotal := rfl
@[simp] theorem State.withIr_lastIrq (s : State) (w : Word) : (s.withIr w).lastIrq = s.lastIrq := rfl
@[simp] theorem State.withIr_drawCount (s : State) (w : Word) : (s.withIr w).drawCount = s.drawCount := rfl
@[simp] theorem State.withIr_extCount (s : State) (w : Word) : (s.withIr w).extCount = s.extCount := rfl

/-! `log` -/

@[simp] theorem State.log_params (s : State) (e : DiagEvent) : (s.log e).params = s.params := rfl
@[simp] theorem State.log_gpr (s : State) (e : DiagEvent) : (s.log e).gpr = s.gpr := rfl
@[simp] theorem State.log_pc (s : State) (e : DiagEvent) : (s.log e).pc = s.pc := rfl
@[simp] theorem State.log_cpsr (s : State) (e : DiagEvent) : (s.log e).cpsr = s.cpsr := rfl
@[simp] theorem State.log_spsr (s : State) (e : DiagEvent) : (s.log e).spsr = s.spsr := rfl
@[simp] theorem State.log_spsrValid (s : State) (e : DiagEvent) : (s.log e).spsrValid = s.spsrValid := rfl
@[simp] theorem State.log_ie (s : State) (e : DiagEvent) : (s.log e).ie = s.ie := rfl
@[simp] theorem State.log_iflag (s : State) (e : DiagEvent) : (s.log e).iflag = s.iflag := rfl
@[simp] theorem State.log_waitcnt (s : State) (e : DiagEvent) : (s.log e).waitcnt = s.waitcnt := rfl
@[simp] theorem State.log_ime (s : State) (e : DiagEvent) : (s.log e).ime = s.ime := rfl
@[simp] theorem State.log_postflg (s : State) (e : DiagEvent) : (s.log e).postflg = s.postflg := rfl
@[simp] theorem State.log_timers (s : State) (e : DiagEvent) : (s.log e).timers = s.timers := rfl
@[simp] theorem State.log_dma (s : State) (e : DiagEvent) : (s.log e).dma = s.dma := rfl
@[simp] theorem State.log_bios (s : State) (e : DiagEvent) : (s.log e).bios = s.bios := rfl
@[simp] theorem State.log_ewram (s : State) (e : DiagEvent) : (s.log e).ewram = s.ewram := rfl
@[simp] theorem State.log_iwram (s : State) (e : DiagEvent) : (s.log e).iwram = s.iwram := rfl
@[simp] theorem State.log_rom (s : State) (e : DiagEvent) : (s.log e).rom = s.rom := rfl
@[simp] theorem State.log_extMem (s : State) (e : DiagEvent) : (s.log e).extMem = s.extMem := rfl
@[simp] theorem State.log_halted (s : State) (e : DiagEvent) : (s.log e).halted = s.halted := rfl
@[simp] theorem State.log_seqNext (s : State) (e : DiagEvent) : (s.log e).seqNext = s.seqNext := rfl
@[simp] theorem State.log_lastCost (s : State) (e : DiagEvent) : (s.log e).lastCost = s.lastCost := rfl
@[simp] theorem State.log_tally (s : State) (e : DiagEvent) : (s.log e).tally = s.tally := rfl
@[simp] theorem State.log_ir (s : State) (e : DiagEvent) : (s.log e).ir = s.ir := rfl
@[simp] theorem State.log_diag (s : State) (e : DiagEvent) : (s.log e).diag = s.diag ++ [e] := rfl
@[simp] theorem State.log_fatal (s : State) (e : DiagEvent) : (s.log e).fatal = s.fatal := rfl
@[simp] theorem State.log_cyclesTotal (s : State) (e : DiagEvent) : (s.log e).cyclesTotal = s.cyclesTotal := rfl
@[simp] theorem State.log_lastIrq (s : State) (e : DiagEvent) : (s.log e).lastIrq = s.lastIrq := rfl
@[simp] theorem State.log_drawCount (s : State) (e : DiagEvent) : (s.log e).drawCount = s.drawCount := rfl
@[simp] theorem State.log_extCount (s : State) (e : DiagEvent) : (s.log e).extCount = s.extCount := rfl

/-! `withFatal` -/

@[simp] theorem State.withFatal_params (s : State) (r : Option DecodeFailure) : (s.withFatal r).params = s.params := rfl
@[simp] theorem State.withFatal_gpr (s : State) (r : Option DecodeFailure) : (s.withFatal r).gpr = s.gpr := rfl
@[simp] theorem State.withFatal_pc (s : State) (r : Option DecodeFailure) : (s.withFatal r).pc = s.pc := rfl
@[simp] theorem State.withFatal_cpsr (s : State) (r : Option DecodeFailure) : (s.withFatal r).cpsr = s.cpsr := rfl
@[simp] theorem State.withFatal_spsr (s : State) (r : Option DecodeFailure) : (s.withFatal r).spsr = s.spsr := rfl
@[simp] theorem State.withFatal_spsrValid (s : State) (r : Option DecodeFailure) : (s.withFatal r).spsrValid = s.spsrValid := rfl
@[simp] theorem State.withFatal_ie (s : State) (r : Option DecodeFailure) : (s.withFatal r).ie = s.ie := rfl
@[simp] theorem State.withFatal_iflag (s : State) (r : Option DecodeFailure) : (s.withFatal r).iflag = s.iflag := rfl
@[simp] theorem State.withFatal_waitcnt (s : State) (r : Option DecodeFailure) : (s.withFatal r).waitcnt = s.waitcnt := rfl
@[simp] theorem State.withFatal_ime (s : State) (r : Option DecodeFailure) : (s.withFatal r).ime = s.ime := rfl
@[simp] theorem State.withFatal_postflg (s : State) (r : Option DecodeFailure) : (s.withFatal r).postflg = s.postflg := rfl
@[simp] theorem State.withFatal_timers (s : State) (r : Option DecodeFailure) : (s.withFatal r).timers = s.timers := rfl
@[simp] theorem State.withFatal_dma (s : State) (r : Option DecodeFailure) : (s.withFatal r).dma = s.dma := rfl
@[simp] theorem State.withFatal_bios (s : State) (r : Option DecodeFailure) : (s.withFatal r).bios = s.bios := rfl
@[simp] theorem State.withFatal_ewram (s : State) (r : Option DecodeFailure) : (s.withFatal r).ewram = s.ewram := rfl
@[simp] theorem State.withFatal_iwram (s : State) (r : Option DecodeFailure) : (s.withFatal r).iwram = s.iwram := rfl
@[simp] theorem State.withFatal_rom (s : State) (r : Option DecodeFailure) : (s.withFatal r).rom = s.rom := rfl
@[simp] theorem State.withFatal_extMem (s : State) (r : Option DecodeFailure) : (s.withFatal r).extMem = s.extMem := rfl
@[simp] theorem State.withFatal_halted (s : State) (r : Option DecodeFailure) : (s.withFatal r).halted = s.halted := rfl
@[simp] theorem State.withFatal_seqNext (s : State) (r : Option DecodeFailure) : (s.withFatal r).seqNext = s.seqNext := rfl
@[simp] theorem State.withFatal_lastCost (s : State) (r : Option DecodeFailure) : (s.withFatal r).lastCost = s.lastCost := rfl
@[simp] theorem State.withFatal_tally (s : State) (r : Option DecodeFailure) : (s.withFatal r).tally = s.tally := rfl
@[simp] theorem State.withFatal_ir (s : State) (r : Option DecodeFailure) : (s.withFatal r).ir = s.ir := rfl
@[simp] theorem State.withFatal_diag (s : State) (r : Option DecodeFailure) : (s.withFatal r).diag = s.diag := rfl
@[simp] theorem State.withFatal_fatal (s : State) (r : Option DecodeFailure) : (s.withFatal r).fatal = r := rfl
@[simp] theorem State.withFatal_cyclesTotal (s : State) (r : Option DecodeFailure) : (s.withFatal r).cyclesTotal = s.cyclesTotal := rfl
@[simp] theorem State.withFatal_lastIrq (s : State) (r : Option DecodeFailure) : (s.withFatal r).lastIrq = s.lastIrq := rfl
@[simp] theorem State.withFatal_drawCount (s : State) (r : Option DecodeFailure) : (s.withFatal r).drawCount = s.drawCount := rfl
@[simp] theorem State.withFatal_extCount (s : State) (r : Option DecodeFailure) : (s.withFatal r).extCount = s.extCount := rfl

/-! `withCyclesTotal` -/

@[simp] theorem State.withCyclesTotal_params (s : State) (n : Nat) : (s.withCyclesTotal n).params = s.params := rfl
@[simp] theorem State.withCyclesTotal_gpr (s : State) (n : Nat) : (s.withCyclesTotal n).gpr = s.gpr := rfl
@[simp] theorem State.withCyclesTotal_pc (s : State) (n : Nat) : (s.withCyclesTotal n).pc = s.pc := rfl
@[simp] theorem State.withCyclesTotal_cpsr (s : State) (n : Nat) : (s.withCyclesTotal n).cpsr = s.cpsr := rfl
@[simp] theorem State.withCyclesTotal_spsr (s : State) (n : Nat) : (s.withCyclesTotal n).spsr = s.spsr := rfl
@[simp] theorem State.withCyclesTotal_spsrValid (s : State) (n : Nat) : (s.withCyclesTotal n).spsrValid = s.spsrValid := rfl
@[simp] theorem State.withCyclesTotal_ie (s : State) (n : Nat) : (s.withCyclesTotal n).ie = s.ie := rfl
@[simp] theorem State.withCyclesTotal_iflag (s : State) (n : Nat) : (s.withCyclesTotal n).iflag = s.iflag := rfl
@[simp] theorem State.withCyclesTotal_waitcnt (s : State) (n : Nat) : (s.withCyclesTotal n).waitcnt = s.waitcnt := rfl
@[simp] theorem State.withCyclesTotal_ime (s : State) (n : Nat) : (s.withCyclesTotal n).ime = s.ime := rfl
@[simp] theorem State.withCyclesTotal_postflg (s : State) (n : Nat) : (s.withCyclesTotal n).postflg = s.postflg := rfl
@[simp] theorem State.withCyclesTotal_timers (s : State) (n : Nat) : (s.withCyclesTotal n).timers = s.timers := rfl
@[simp] theorem State.withCyclesTotal_dma (s : State) (n : Nat) : (s.withCyclesTotal n).dma = s.dma := rfl
@[simp] theorem State.withCyclesTotal_bios (s : State) (n : Nat) : (s.withCyclesTotal n).bios = s.bios := rfl
@[simp] theorem State.withCyclesTotal_ewram (s : State) (n : Nat) : (s.withCyclesTotal n).ewram = s.ewram := rfl
@[simp] theorem State.withCyclesTotal_iwram (s : State) (n : Nat) : (s.withCyclesTotal n).iwram = s.iwram := rfl
@[simp] theorem State.withCyclesTotal_rom (s : State) (n : Nat) : (s.withCyclesTotal n).rom = s.rom := rfl
@[simp] theorem State.withCyclesTotal_extMem (s : State) (n : Nat) : (s.withCyclesTotal n).extMem = s.extMem := rfl
@[simp] theorem State.withCyclesTotal_halted (s : State) (n : Nat) : (s.withCyclesTotal n).halted = s.halted := rfl
@[simp] theorem State.withCyclesTotal_seqNext (s : State) (n : Nat) : (s.withCyclesTotal n).seqNext = s.seqNext := rfl
@[simp] theorem State.withCyclesTotal_lastCost (s : State) (n : Nat) : (s.withCyclesTotal n).lastCost = s.lastCost := rfl
@[simp] theorem State.withCyclesTotal_tally (s : State) (n : Nat) : (s.withCyclesTotal n).tally = s.tally := rfl
@[simp] theorem State.withCyclesTotal_ir (s : State) (n : Nat) : (s.withCyclesTotal n).ir = s.ir := rfl
@[simp] theorem State.withCyclesTotal_diag (s : State) (n : Nat) : (s.withCyclesTotal n).diag = s.diag := rfl
@[simp] theorem State.withCyclesTotal_fatal (s : State) (n : Nat) : (s.withCyclesTotal n).fatal = s.fatal := rfl
@[simp] theorem State.withCyclesTotal_cyclesTotal (s : State) (n : Nat) : (s.withCyclesTotal n).cyclesTotal = n := rfl
@[simp] theorem State.withCyclesTotal_lastIrq (s : State) (n : Nat) : (s.withCyclesTotal n).lastIrq = s.lastIrq := rfl
@[simp] theorem State.withCyclesTotal_drawCount (s : State) (n : Nat) : (s.withCyclesTotal n).drawCount = s.drawCount := rfl
@[simp] theorem State.withCyclesTotal_extCount (s : State) (n : Nat) : (s.withCyclesTotal n).extCount = s.extCount := rfl

/-! `withLastIrq` -/

@[simp] theorem State.withLastIrq_params (s : State) (i : Option (Fin 14)) : (s.withLastIrq i).params = s.params := rfl
@[simp] theorem State.withLastIrq_gpr (s : State) (i : Option (Fin 14)) : (s.withLastIrq i).gpr = s.gpr := rfl
@[simp] theorem State.withLastIrq_pc (s : State) (i : Option (Fin 14)) : (s.withLastIrq i).pc = s.pc := rfl
@[simp] theorem State.withLastIrq_cpsr (s : State) (i : Option (Fin 14)) : (s.withLastIrq i).cpsr = s.cpsr := rfl
@[simp] theorem State.withLastIrq_spsr (s : State) (i : Option (Fin 14)) : (s.withLastIrq i).spsr = s.spsr := rfl
@[simp] theorem State.withLastIrq_spsrValid (s : State) (i : Option (Fin 14)) : (s.withLastIrq i).spsrValid = s.spsrValid := rfl
@[simp] theorem State.withLastIrq_ie (s : State) (i : Option (Fin 14)) : (s.withLastIrq i).ie = s.ie := rfl
@[simp] theorem State.withLastIrq_iflag (s : State) (i : Option (Fin 14)) : (s.withLastIrq i).iflag = s.iflag := rfl
@[simp] theorem State.withLastIrq_waitcnt (s : State) (i : Option (Fin 14)) : (s.withLastIrq i).waitcnt = s.waitcnt := rfl
@[simp] theorem State.withLastIrq_ime (s : State) (i : Option (Fin 14)) : (s.withLastIrq i).ime = s.ime := rfl
@[simp] theorem State.withLastIrq_postflg (s : State) (i : Option (Fin 14)) : (s.withLastIrq i).postflg = s.postflg := rfl
@[simp] theorem State.withLastIrq_timers (s : State) (i : Option (Fin 14)) : (s.withLastIrq i).timers = s.timers := rfl
@[simp] theorem State.withLastIrq_dma (s : State) (i : Option (Fin 14)) : (s.withLastIrq i).dma = s.dma := rfl
@[simp] theorem State.withLastIrq_bios (s : State) (i : Option (Fin 14)) : (s.withLastIrq i).bios = s.bios := rfl
@[simp] theorem State.withLastIrq_ewram (s : State) (i : Option (Fin 14)) : (s.withLastIrq i).ewram = s.ewram := rfl
@[simp] theorem State.withLastIrq_iwram (s : State) (i : Option (Fin 14)) : (s.withLastIrq i).iwram = s.iwram := rfl
@[simp] theorem State.withLastIrq_rom (s : State) (i : Option (Fin 14)) : (s.withLastIrq i).rom = s.rom := rfl
@[simp] theorem State.withLastIrq_extMem (s : State) (i : Option (Fin 14)) : (s.withLastIrq i).extMem = s.extMem := rfl
@[simp] theorem State.withLastIrq_halted (s : State) (i : Option (Fin 14)) : (s.withLastIrq i).halted = s.halted := rfl
@[simp] theorem State.withLastIrq_seqNext (s : State) (i : Option (Fin 14)) : (s.withLastIrq i).seqNext = s.seqNext := rfl
@[simp] theorem State.withLastIrq_lastCost (s : State) (i : Option (Fin 14)) : (s.withLastIrq i).lastCost = s.lastCost := rfl
@[simp] theorem State.withLastIrq_tally (s : State) (i : Option (Fin 14)) : (s.withLastIrq i).tally = s.tally := rfl
@[simp] theorem State.withLastIrq_ir (s : State) (i : Option (Fin 14)) : (s.withLastIrq i).ir = s.ir := rfl
@[simp] theorem State.withLastIrq_diag (s : State) (i : Option (Fin 14)) : (s.withLastIrq i).diag = s.diag := rfl
@[simp] theorem State.withLastIrq_fatal (s : State) (i : Option (Fin 14)) : (s.withLastIrq i).fatal = s.fatal := rfl
@[simp] theorem State.withLastIrq_cyclesTotal (s : State) (i : Option (Fin 14)) : (s.withLastIrq i).cyclesTotal = s.cyclesTotal := rfl
@[simp] theorem State.withLastIrq_lastIrq (s : State) (i : Option (Fin 14)) : (s.withLastIrq i).lastIrq = i := rfl
@[simp] theorem State.withLastIrq_drawCount (s : State) (i : Option (Fin 14)) : (s.withLastIrq i).drawCount = s.drawCount := rfl
@[simp] theorem State.withLastIrq_extCount (s : State) (i : Option (Fin 14)) : (s.withLastIrq i).extCount = s.extCount := rfl

/-! `withDrawCount` -/

@[simp] theorem State.withDrawCount_params (s : State) (n : Nat) : (s.withDrawCount n).params = s.params := rfl
@[simp] theorem State.withDrawCount_gpr (s : State) (n : Nat) : (s.withDrawCount n).gpr = s.gpr := rfl
@[simp] theorem State.withDrawCount_pc (s : State) (n : Nat) : (s.withDrawCount n).pc = s.pc := rfl
@[simp] theorem State.withDrawCount_cpsr (s : State) (n : Nat) : (s.withDrawCount n).cpsr = s.cpsr := rfl
@[simp] theorem State.withDrawCount_spsr (s : State) (n : Nat) : (s.withDrawCount n).spsr = s.spsr := rfl
@[simp] theorem State.withDrawCount_spsrValid (s : State) (n : Nat) : (s.withDrawCount n).spsrValid = s.spsrValid := rfl
@[simp] theorem State.withDrawCount_ie (s : State) (n : Nat) : (s.withDrawCount n).ie = s.ie := rfl
@[simp] theorem State.withDrawCount_iflag (s : State) (n : Nat) : (s.withDrawCount n).iflag = s.iflag := rfl
@[simp] theorem State.withDrawCount_waitcnt (s : State) (n : Nat) : (s.withDrawCount n).waitcnt = s.waitcnt := rfl
@[simp] theorem State.withDrawCount_ime (s : State) (n : Nat) : (s.withDrawCount n).ime = s.ime := rfl
@[simp] theorem State.withDrawCount_postflg (s : State) (n : Nat) : (s.withDrawCount n).postflg = s.postflg := rfl
@[simp] theorem State.withDrawCount_timers (s : State) (n : Nat) : (s.withDrawCount n).timers = s.timers := rfl
@[simp] theorem State.withDrawCount_dma (s : State) (n : Nat) : (s.withDrawCount n).dma = s.dma := rfl
@[simp] theorem State.withDrawCount_bios (s : State) (n : Nat) : (s.withDrawCount n).bios = s.bios := rfl
@[simp] theorem State.withDrawCount_ewram (s : State) (n : Nat) : (s.withDrawCount n).ewram = s.ewram := rfl
@[simp] theorem State.withDrawCount_iwram (s : State) (n : Nat) : (s.withDrawCount n).iwram = s.iwram := rfl
@[simp] theorem State.withDrawCount_rom (s : State) (n : Nat) : (s.withDrawCount n).rom = s.rom := rfl
@[simp] theorem State.withDrawCount_extMem (s : State) (n : Nat) : (s.withDrawCount n).extMem = s.extMem := rfl
@[simp] theorem State.withDrawCount_halted (s : State) (n : Nat) : (s.withDrawCount n).halted = s.halted := rfl
@[simp] theorem State.withDrawCount_seqNext (s : State) (n : Nat) : (s.withDrawCount n).seqNext = s.seqNext := rfl
@[simp] theorem State.withDrawCount_lastCost (s : State) (n : Nat) : (s.withDrawCount n).lastCost = s.lastCost := rfl
@[simp] theorem State.withDrawCount_tally (s : State) (n : Nat) : (s.withDrawCount n).tally = s.tally := rfl
@[simp] theorem State.withDrawCount_ir (s : State) (n : Nat) : (s.withDrawCount n).ir = s.ir := rfl
@[simp] theorem State.withDrawCount_diag (s : State) (n : Nat) : (s.withDrawCount n).diag = s.diag := rfl
@[simp] theorem State.withDrawCount_fatal (s : State) (n : Nat) : (s.withDrawCount n).fatal = s.fatal := rfl
@[simp] theorem State.withDrawCount_cyclesTotal (s : State) (n : Nat) : (s.withDrawCount n).cyclesTotal = s.cyclesTotal := rfl
@[simp] theorem State.withDrawCount_lastIrq (s : State) (n : Nat) : (s.withDrawCount n).lastIrq = s.lastIrq := rfl
@[simp] theorem State.withDrawCount_drawCount (s : State) (n : Nat) : (s.withDrawCount n).drawCount = n := rfl
@[simp] theorem State.withDrawCount_extCount (s : State) (n : Nat) : (s.withDrawCount n).extCount = s.extCount := rfl

/-! `withExtCount` -/

@[simp] theorem State.withExtCount_params (s : State) (n : Nat) : (s.withExtCount n).params = s.params := rfl
@[simp] theorem State.withExtCount_gpr (s : State) (n : Nat) : (s.withExtCount n).gpr = s.gpr := rfl
@[simp] theorem State.withExtCount_pc (s : State) (n : Nat) : (s.withExtCount n).pc = s.pc := rfl
@[simp] theorem State.withExtCount_cpsr (s : State) (n : Nat) : (s.withExtCount n).cpsr = s.cpsr := rfl
@[simp] theorem State.withExtCount_spsr (s : State) (n : Nat) : (s.withExtCount n).spsr = s.spsr := rfl
@[simp] theorem State.withExtCount_spsrValid (s : State) (n : Nat) : (s.withExtCount n).spsrValid = s.spsrValid := rfl
@[simp] theorem State.withExtCount_ie (s : State) (n : Nat) : (s.withExtCount n).ie = s.ie := rfl
@[simp] theorem State.withExtCount_iflag (s : State) (n : Nat) : (s.withExtCount n).iflag = s.iflag := rfl
@[simp] theorem State.withExtCount_waitcnt (s : State) (n : Nat) : (s.withExtCount n).waitcnt = s.waitcnt := rfl
@[simp] theorem State.withExtCount_ime (s : State) (n : Nat) : (s.withExtCount n).ime = s.ime := rfl
@[simp] theorem State.withExtCount_postflg (s : State) (n : Nat) : (s.withExtCount n).postflg = s.postflg := rfl
@[simp] theorem State.withExtCount_timers (s : State) (n : Nat) : (s.withExtCount n).timers = s.timers := rfl
@[simp] theorem State.withExtCount_dma (s : State) (n : Nat) : (s.withExtCount n).dma = s.dma := rfl
@[simp] theorem State.withExtCount_bios (s : State) (n : Nat) : (s.withExtCount n).bios = s.bios := rfl
@[simp] theorem State.withExtCount_ewram (s : State) (n : Nat) : (s.withExtCount n).ewram = s.ewram := rfl
@[simp] theorem State.withExtCount_iwram (s : State) (n : Nat) : (s.withExtCount n).iwram = s.iwram := rfl
@[simp] theorem State.withExtCount_rom (s : State) (n : Nat) : (s.withExtCount n).rom = s.rom := rfl
@[simp] theorem State.withExtCount_extMem (s : State) (n : Nat) : (s.withExtCount n).extMem = s.extMem := rfl
@[simp] theorem State.withExtCount_halted (s : State) (n : Nat) : (s.withExtCount n).halted = s.halted := rfl
@[simp] theorem State.withExtCount_seqNext (s : State) (n : Nat) : (s.withExtCount n).seqNext = s.seqNext := rfl
@[simp] theorem State.withExtCount_lastCost (s : State) (n : Nat) : (s.withExtCount n).lastCost = s.lastCost := rfl
@[simp] theorem State.withExtCount_tally (s : State) (n : Nat) : (s.withExtCount n).tally = s.tally := rfl
@[simp] theorem State.withExtCount_ir (s : State) (n : Nat) : (s.withExtCount n).ir = s.ir := rfl
@[simp] theorem State.withExtCount_diag (s : State) (n : Nat) : (s.withExtCount n).diag = s.diag := rfl
@[simp] theorem State.withExtCount_fatal (s : State) (n : Nat) : (s.withExtCount n).fatal = s.fatal := rfl
@[simp] theorem State.withExtCount_cyclesTotal (s : State) (n : Nat) : (s.withExtCount n).cyclesTotal = s.cyclesTotal := rfl
@[simp] theorem State.withExtCount_lastIrq (s : State) (n : Nat) : (s.withExtCount n).lastIrq = s.lastIrq := rfl
@[simp] theorem State.withExtCount_drawCount (s : State) (n : Nat) : (s.withExtCount n).drawCount = s.drawCount := rfl
@[simp] theorem State.withExtCount_extCount (s : State) (n : Nat) : (s.withExtCount n).extCount = n := rfl

/-! `charge` -/

@[simp] theorem State.charge_params (s : State) (n : Nat) : (s.charge n).params = s.params := rfl
@[simp] theorem State.charge_gpr (s : State) (n : Nat) : (s.charge n).gpr = s.gpr := rfl
@[simp] theorem State.charge_pc (s : State) (n : Nat) : (s.charge n).pc = s.pc := rfl
@[simp] theorem State.charge_cpsr (s : State) (n : Nat) : (s.charge n).cpsr = s.cpsr := rfl
@[simp] theorem State.charge_spsr (s : State) (n : Nat) : (s.charge n).spsr = s.spsr := rfl
@[simp] theorem State.charge_spsrValid (s : State) (n : Nat) : (s.charge n).spsrValid = s.spsrValid := rfl
@[simp] theorem State.charge_ie (s : State) (n : Nat) : (s.charge n).ie = s.ie := rfl
@[simp] theorem State.charge_iflag (s : State) (n : Nat) : (s.charge n).iflag = s.iflag := rfl
@[simp] theorem State.charge_waitcnt (s : State) (n : Nat) : (s.charge n).waitcnt = s.waitcnt := rfl
@[simp] theorem State.charge_ime (s : State) (n : Nat) : (s.charge n).ime = s.ime := rfl
@[simp] theorem State.charge_postflg (s : State) (n : Nat) : (s.charge n).postflg = s.postflg := rfl
@[simp] theorem State.charge_timers (s : State) (n : Nat) : (s.charge n).timers = s.timers := rfl
@[simp] theorem State.charge_dma (s : State) (n : Nat) : (s.charge n).dma = s.dma := rfl
@[simp] theorem State.charge_bios (s : State) (n : Nat) : (s.charge n).bios = s.bios := rfl
@[simp] theorem State.charge_ewram (s : State) (n : Nat) : (s.charge n).ewram = s.ewram := rfl
@[simp] theorem State.charge_iwram (s : State) (n : Nat) : (s.charge n).iwram = s.iwram := rfl
@[simp] theorem State.charge_rom (s : State) (n : Nat) : (s.charge n).rom = s.rom := rfl
@[simp] theorem State.charge_extMem (s : State) (n : Nat) : (s.charge n).extMem = s.extMem := rfl
@[simp] theorem State.charge_halted (s : State) (n : Nat) : (s.charge n).halted = s.halted := rfl
@[simp] theorem State.charge_seqNext (s : State) (n : Nat) : (s.charge n).seqNext = s.seqNext := rfl
@[simp] theorem State.charge_lastCost (s : State) (n : Nat) : (s.charge n).lastCost = s.lastCost := rfl
@[simp] theorem State.charge_tally (s : State) (n : Nat) : (s.charge n).tally = s.tally + n := rfl
@[simp] theorem State.charge_ir (s : State) (n : Nat) : (s.charge n).ir = s.ir := rfl
@[simp] theorem State.charge_diag (s : State) (n : Nat) : (s.charge n).diag = s.diag := rfl
@[simp] theorem State.charge_fatal (s : State) (n : Nat) : (s.charge n).fatal = s.fatal := rfl
@[simp] theorem State.charge_cyclesTotal (s : State) (n : Nat) : (s.charge n).cyclesTotal = s.cyclesTotal := rfl
@[simp] theorem State.charge_lastIrq (s : State) (n : Nat) : (s.charge n).lastIrq = s.lastIrq := rfl
@[simp] theorem State.charge_drawCount (s : State) (n : Nat) : (s.charge n).drawCount = s.drawCount := rfl
@[simp] theorem State.charge_extCount (s : State) (n : Nat) : (s.charge n).extCount = s.extCount := rfl

/-! `logIf` -/

@[simp] theorem State.logIf_params (s : State) (b : Bool) (e : DiagEvent) : (s.logIf b e).params = s.params := by cases b <;> rfl
@[simp] theorem State.logIf_gpr (s : State) (b : Bool) (e : DiagEvent) : (s.logIf b e).gpr = s.gpr := by cases b <;> rfl
@[simp] theorem State.logIf_pc (s : State) (b : Bool) (e : DiagEvent) : (s.logIf b e).pc = s.pc := by cases b <;> rfl
@[simp] theorem State.logIf_cpsr (s : State) (b : Bool) (e : DiagEvent) : (s.logIf b e).cpsr = s.cpsr := by cases b <;> rfl
@[simp] theorem State.logIf_spsr (s : State) (b : Bool) (e : DiagEvent) : (s.logIf b e).spsr = s.spsr := by cases b <;> rfl
@[simp] theorem State.logIf_spsrValid (s : State) (b : Bool) (e : DiagEvent) : (s.logIf b e).spsrValid = s.spsrValid := by cases b <;> rfl
@[simp] theorem State.logIf_ie (s : State) (b : Bool) (e : DiagEvent) : (s.logIf b e).ie = s.ie := by cases b <;> rfl
@[simp] theorem State.logIf_iflag (s : State) (b : Bool) (e : DiagEvent) : (s.logIf b e).iflag = s.iflag := by cases b <;> rfl
@[simp] theorem State.logIf_waitcnt (s : State) (b : Bool) (e : DiagEvent) : (s.logIf b e).waitcnt = s.waitcnt := by cases b <;> rfl
@[simp] theorem State.logIf_ime (s : State) (b : Bool) (e : DiagEvent) : (s.logIf b e).ime = s.ime := by cases b <;> rfl
@[simp] theorem State.logIf_postflg (s : State) (b : Bool) (e : DiagEvent) : (s.logIf b e).postflg = s.postflg := by cases b <;> rfl
@[simp] theorem State.logIf_timers (s : State) (b : Bool) (e : DiagEvent) : (s.logIf b e).timers = s.timers := by cases b <;> rfl
@[simp] theorem State.logIf_dma (s : State) (b : Bool) (e : DiagEvent) : (s.logIf b e).dma = s.dma := by cases b <;> rfl
@[simp] theorem State.logIf_bios (s : State) (b : Bool) (e : DiagEvent) : (s.logIf b e).bios = s.bios := by cases b <;> rfl
@[simp] theorem State.logIf_ewram (s : State) (b : Bool) (e : DiagEvent) : (s.logIf b e).ewram = s.ewram := by cases b <;> rfl
@[simp] theorem State.logIf_iwram (s : State) (b : Bool) (e : DiagEvent) : (s.logIf b e).iwram = s.iwram := by cases b <;> rfl
@[simp] theorem State.logIf_rom (s : State) (b : Bool) (e : DiagEvent) : (s.logIf b e).rom = s.rom := by cases b <;> rfl
@[simp] theorem State.logIf_extMem (s : State) (b : Bool) (e : DiagEvent) : (s.logIf b e).extMem = s.extMem := by cases b <;> rfl
@[simp] theorem State.logIf_halted (s : State) (b : Bool) (e : DiagEvent) : (s.logIf b e).halted = s.halted := by cases b <;> rfl
@[simp] theorem State.logIf_seqNext (s : State) (b : Bool) (e : DiagEvent) : (s.logIf b e).seqNext = s.seqNext := by cases b <;> rfl
@[simp] theorem State.logIf_lastCost (s : State) (b : Bool) (e : DiagEvent) : (s.logIf b e).lastCost = s.lastCost := by cases b <;> rfl
@[simp] theorem State.logIf_tally (s : State) (b : Bool) (e : DiagEvent) : (s.logIf b e).tally = s.tally := by cases b <;> rfl
@[simp] theorem State.logIf_ir (s : State) (b : Bool) (e : DiagEvent) : (s.logIf b e).ir = s.ir := by cases b <;> rfl
@[simp] theorem State.logIf_diag (s : State) (b : Bool) (e : DiagEvent) :
    (s.logIf b e).diag = if b then s.diag ++ [e] else s.diag := by cases b <;> rfl
@[simp] theorem State.logIf_fatal (s : State) (b : Bool) (e : DiagEvent) : (s.logIf b e).fatal = s.fatal := by cases b <;> rfl
@[simp] theorem State.logIf_cyclesTotal (s : State) (b : Bool) (e : DiagEvent) : (s.logIf b e).cyclesTotal = s.cyclesTotal := by cases b <;> rfl
@[simp] theorem State.logIf_lastIrq (s : State) (b : Bool) (e : DiagEvent) : (s.logIf b e).lastIrq = s.lastIrq := by cases b <;> rfl
@[simp] theorem State.logIf_drawCount (s : State) (b : Bool) (e : DiagEvent) : (s.logIf b e).drawCount = s.drawCount := by cases b <;> rfl
@[simp] theorem State.logIf_extCount (s : State) (b : Bool) (e : DiagEvent) : (s.logIf b e).extCount = s.extCount := by cases b <;> rfl

end Sys2Proof.Machine
end

