-- ==== Sys2Proof/Laws/Frame.lean ====
section
/-! SUPPORT. What every operation of an instruction keeps: one relation between the state before and after, closed
under composition, which the invariant and the whole-machine rules follow from. -/

set_option Elab.async false

namespace Sys2Proof.Machine

/-- What runs between the fetch and the accounting of a step keeps: the parameters and images, the fields only the step
itself writes, the order of the log, the parts of the invariant that do not speak of `pc`. -/
structure Ran (s t : State) : Prop where
  params : t.params = s.params
  bios : t.bios = s.bios
  rom : t.rom = s.rom
  cyclesTotal : t.cyclesTotal = s.cyclesTotal
  lastIrq : t.lastIrq = s.lastIrq
  drawCount : t.drawCount = s.drawCount
  ir : t.ir = s.ir
  diag : ∃ l, t.diag = s.diag ++ l
  memories : s.MemoriesOk → t.MemoriesOk
  registers : s.RegistersOk → t.RegistersOk
  noDma : s.params.dmaPresent = false → t.dma = s.dma
  mode : validMode s.modeCode = true → validMode t.modeCode = true
  fatal : ∀ r, t.fatal = some r → s.fatal = some r ∨ s.params.undPolicy = .fatal ∧ illegalTag r.tag = true

theorem Ran.refl (s : State) : Ran s s where
  params := rfl
  bios := rfl
  rom := rfl
  cyclesTotal := rfl
  lastIrq := rfl
  drawCount := rfl
  ir := rfl
  diag := ⟨[], (List.append_nil _).symm⟩
  memories := id
  registers := id
  noDma _ := rfl
  mode := id
  fatal _ h := .inl h

theorem Ran.trans {s t u : State} (h : Ran s t) (k : Ran t u) : Ran s u where
  params := k.params.trans h.params
  bios := k.bios.trans h.bios
  rom := k.rom.trans h.rom
  cyclesTotal := k.cyclesTotal.trans h.cyclesTotal
  lastIrq := k.lastIrq.trans h.lastIrq
  drawCount := k.drawCount.trans h.drawCount
  ir := k.ir.trans h.ir
  diag := by
    obtain ⟨l, hl⟩ := h.diag
    obtain ⟨m, hm⟩ := k.diag
    exact ⟨l ++ m, by rw [hm, hl, List.append_assoc]⟩
  memories := k.memories ∘ h.memories
  registers := k.registers ∘ h.registers
  noDma hd := (k.noDma (h.params ▸ hd)).trans (h.noDma hd)
  mode := k.mode ∘ h.mode
  fatal r hr := by
    rcases k.fatal r hr with e | ⟨e, f⟩
    · exact h.fatal r e
    · exact .inr ⟨h.params ▸ e, f⟩

/-- An update of fields that the relation does not speak of. -/
theorem Ran.of_scratch {s t : State}
    (h : t = { s with gpr := t.gpr, pc := t.pc, spsr := t.spsr, spsrValid := t.spsrValid, seqNext := t.seqNext,
                      lastCost := t.lastCost, tally := t.tally, halted := t.halted, extCount := t.extCount }) : Ran s t := by
  rw [h]
  exact ⟨rfl, rfl, rfl, rfl, rfl, rfl, rfl, ⟨[], (List.append_nil _).symm⟩, fun m => ⟨m.1, m.2, m.3, m.4, m.5, m.6⟩,
    fun r => ⟨r.1, r.2, r.3, r.4, r.5, r.6, r.7⟩, fun _ => rfl, id, fun _ e => .inl e⟩

theorem ran_withGpr (s : State) (i : Fin 30) (v : Word) : Ran s (s.withGpr i v) := .of_scratch rfl
theorem ran_withPc (s : State) (v : Word) : Ran s (s.withPc v) := .of_scratch rfl
theorem ran_withSpsr (s : State) (m : Fin 5) (v : Word) : Ran s (s.withSpsr m v) := .of_scratch rfl
theorem ran_withSpsrValid (s : State) (m : Fin 5) (b : Bool) : Ran s (s.withSpsrValid m b) := .of_scratch rfl
theorem ran_withHalted (s : State) (b : Bool) : Ran s (s.withHalted b) := .of_scratch rfl
theorem ran_withSeqNext (s : State) (a : Option Word) : Ran s (s.withSeqNext a) := .of_scratch rfl
theorem ran_withLastCost (s : State) (c : Nat) : Ran s (s.withLastCost c) := .of_scratch rfl
theorem ran_withTally (s : State) (n : Nat) : Ran s (s.withTally n) := .of_scratch rfl
theorem ran_charge (s : State) (n : Nat) : Ran s (s.charge n) := .of_scratch rfl
theorem ran_withExtCount (s : State) (n : Nat) : Ran s (s.withExtCount n) := .of_scratch rfl

/-- The relation for an update given by what it does to each field the relation speaks of. -/
theorem Ran.of_parts {s t : State}
    (h : t = { s with cpsr := t.cpsr, ie := t.ie, iflag := t.iflag, waitcnt := t.waitcnt, ime := t.ime,
                      postflg := t.postflg, timers := t.timers, dma := t.dma, ewram := t.ewram, iwram := t.iwram,
                      extMem := t.extMem, diag := t.diag })
    (hd : ∃ l, t.diag = s.diag ++ l) (hm : s.MemoriesOk → t.MemoriesOk) (hr : s.RegistersOk → t.RegistersOk)
    (hn : s.params.dmaPresent = false → t.dma = s.dma) (hv : validMode s.modeCode = true → validMode t.modeCode = true) :
    Ran s t where
  params := by rw [h]
  bios := by rw [h]
  rom := by rw [h]
  cyclesTotal := by rw [h]
  lastIrq := by rw [h]
  drawCount := by rw [h]
  ir := by rw [h]
  diag := hd
  memories := hm
  registers := hr
  noDma := hn
  mode := hv
  fatal r e := by
    rw [h] at e
    exact .inl e

theorem ran_log (s : State) (e : DiagEvent) : Ran s (s.log e) :=
  .of_parts rfl ⟨[e], rfl⟩ (fun m => ⟨m.1, m.2, m.3, m.4, m.5, m.6⟩) (fun r => ⟨r.1, r.2, r.3, r.4, r.5, r.6, r.7⟩)
    (fun _ => rfl) id

theorem ran_logIf (s : State) (b : Bool) (e : DiagEvent) : Ran s (s.logIf b e) := by
  cases b
  · exact .refl s
  · exact ran_log s e

theorem ran_withCpsr (s : State) (v : Word) (h : validMode s.modeCode = true → validMode (v.extractLsb' 0 5) = true) :
    Ran s (s.withCpsr v) :=
  .of_parts rfl ⟨[], (List.append_nil _).symm⟩ (fun m => ⟨m.1, m.2, m.3, m.4, m.5, m.6⟩)
    (fun r => ⟨r.1, r.2, r.3, r.4, r.5, r.6, r.7⟩) (fun _ => rfl) h

theorem ran_withEwram (s : State) (m : Memory) (h : s.ewram.ok Config.ewramSize = true → m.ok Config.ewramSize = true) :
    Ran s (s.withEwram m) :=
  .of_parts rfl ⟨[], (List.append_nil _).symm⟩ (fun k => ⟨k.1, h k.2, k.3, k.4, k.5, k.6⟩)
    (fun r => ⟨r.1, r.2, r.3, r.4, r.5, r.6, r.7⟩) (fun _ => rfl) id

theorem ran_withIwram (s : State) (m : Memory) (h : s.iwram.ok Config.iwramSize = true → m.ok Config.iwramSize = true) :
    Ran s (s.withIwram m) :=
  .of_parts rfl ⟨[], (List.append_nil _).symm⟩ (fun k => ⟨k.1, k.2, h k.3, k.4, k.5, k.6⟩)
    (fun r => ⟨r.1, r.2, r.3, r.4, r.5, r.6, r.7⟩) (fun _ => rfl) id

theorem ran_withExtMem (s : State) (m : Memory) (h : s.extMem.wf = true → m.wf = true) : Ran s (s.withExtMem m) :=
  .of_parts rfl ⟨[], (List.append_nil _).symm⟩ (fun k => ⟨k.1, k.2, k.3, k.4, h k.5, k.6⟩)
    (fun r => ⟨r.1, r.2, r.3, r.4, r.5, r.6, r.7⟩) (fun _ => rfl) id

theorem ran_withIe (s : State) (v : Half) (h : s.ie &&& 0x3FFF#16 = s.ie → v &&& 0x3FFF#16 = v) :
    Ran s (s.withIe v) :=
  .of_parts rfl ⟨[], (List.append_nil _).symm⟩ (fun k => ⟨k.1, k.2, k.3, k.4, k.5, k.6⟩)
    (fun r => ⟨h r.1, r.2, r.3, r.4, r.5, r.6, r.7⟩) (fun _ => rfl) id

theorem ran_withIflag (s : State) (v : Half) (h : s.iflag &&& 0x3FFF#16 = s.iflag → v &&& 0x3FFF#16 = v) :
    Ran s (s.withIflag v) :=
  .of_parts rfl ⟨[], (List.append_nil _).symm⟩ (fun k => ⟨k.1, k.2, k.3, k.4, k.5, k.6⟩)
    (fun r => ⟨r.1, h r.2, r.3, r.4, r.5, r.6, r.7⟩) (fun _ => rfl) id

theorem ran_withWaitcnt (s : State) (v : Half) (h : s.waitcnt &&& 0x5FFF#16 = s.waitcnt → v &&& 0x5FFF#16 = v) :
    Ran s (s.withWaitcnt v) :=
  .of_parts rfl ⟨[], (List.append_nil _).symm⟩ (fun k => ⟨k.1, k.2, k.3, k.4, k.5, k.6⟩)
    (fun r => ⟨r.1, r.2, h r.3, r.4, r.5, r.6, r.7⟩) (fun _ => rfl) id

theorem ran_withIme (s : State) (v : Word) (h : s.ime &&& 1#32 = s.ime → v &&& 1#32 = v) :
    Ran s (s.withIme v) :=
  .of_parts rfl ⟨[], (List.append_nil _).symm⟩ (fun k => ⟨k.1, k.2, k.3, k.4, k.5, k.6⟩)
    (fun r => ⟨r.1, r.2, r.3, h r.4, r.5, r.6, r.7⟩) (fun _ => rfl) id

theorem ran_withPostflg (s : State) (v : Byte) (h : s.postflg &&& 1#8 = s.postflg → v &&& 1#8 = v) :
    Ran s (s.withPostflg v) :=
  .of_parts rfl ⟨[], (List.append_nil _).symm⟩ (fun k => ⟨k.1, k.2, k.3, k.4, k.5, k.6⟩)
    (fun r => ⟨r.1, r.2, r.3, r.4, h r.5, r.6, r.7⟩) (fun _ => rfl) id

/-- A property of every entry of a vector survives the change of one entry that has it. -/
theorem vector_set_all {α : Type} {n : Nat} {v : Vector α n} {P : α → Prop} (h : ∀ j : Fin n, P v[j]) (k : Fin n) {x : α}
    (hx : P x) (j : Fin n) : P (v.set k x)[j] := by
  by_cases e : k.val = j.val
  · have : (v.set k x)[j] = x := by simp [e]
    rw [this]
    exact hx
  · have : (v.set k x)[j] = v[j] := by simp [Vector.getElem_set_ne _ _ e]
    rw [this]
    exact h j

theorem ran_withTimer (s : State) (k : Fin 4) (t : Timer) (h : (s.timers[k]).ok = true → t.ok = true) :
    Ran s (s.withTimer k t) :=
  .of_parts rfl ⟨[], (List.append_nil _).symm⟩ (fun k => ⟨k.1, k.2, k.3, k.4, k.5, k.6⟩)
    (fun r => ⟨r.1, r.2, r.3, r.4, r.5, vector_set_all (P := fun t => Timer.ok t = true) r.6 k (h (r.6 k)), r.7⟩)
    (fun _ => rfl) id

theorem ran_withDma (s : State) (x : Fin 4) (c : DmaChannel) (hp : s.params.dmaPresent = true)
    (h : (s.dma[x]).ok = true → c.ok = true) : Ran s (s.withDma x c) :=
  .of_parts rfl ⟨[], (List.append_nil _).symm⟩ (fun k => ⟨k.1, k.2, k.3, k.4, k.5, k.6⟩)
    (fun r => ⟨r.1, r.2, r.3, r.4, r.5, r.6, vector_set_all (P := fun c => DmaChannel.ok c = true) r.7 x (h (r.7 x))⟩)
    (fun e => absurd (hp.symm.trans e) (by decide)) id

theorem ran_withFatal (s : State) (r : DecodeFailure) (hp : s.params.undPolicy = .fatal) (ht : illegalTag r.tag = true) :
    Ran s (s.withFatal (some r)) where
  params := rfl
  bios := rfl
  rom := rfl
  cyclesTotal := rfl
  lastIrq := rfl
  drawCount := rfl
  ir := rfl
  diag := ⟨[], (List.append_nil _).symm⟩
  memories m := ⟨m.1, m.2, m.3, m.4, m.5, m.6⟩
  registers r := ⟨r.1, r.2, r.3, r.4, r.5, r.6, r.7⟩
  noDma _ := rfl
  mode := id
  fatal q hq := by
    cases hq
    exact .inr ⟨hp, ht⟩

end Sys2Proof.Machine
end

