-- ==== Sys2Proof/Laws/Bus.lean ====
section
/-! SUPPORT. What a bus access can do: a read changes the accounting, the log and the count of foreign reads only; a
write changes memory, devices and the accounting only. -/

set_option Elab.async false

namespace Sys2Proof.Machine

/-- What a read of the bus leaves: everything but the accounting, the log and the count of foreign reads. -/
structure Looked (s t : State) : Prop where
  same : t = { s with seqNext := t.seqNext, lastCost := t.lastCost, tally := t.tally, diag := t.diag,
                      extCount := t.extCount }
  diag : ∃ l, t.diag = s.diag ++ l

/-- What a write of the bus leaves: registers, status words, `pc`, parameters and images. -/
structure OnBus (s t : State) : Prop where
  same : t = { s with ie := t.ie, iflag := t.iflag, waitcnt := t.waitcnt, ime := t.ime, postflg := t.postflg,
                      timers := t.timers, dma := t.dma, ewram := t.ewram, iwram := t.iwram, extMem := t.extMem,
                      halted := t.halted, seqNext := t.seqNext, lastCost := t.lastCost, tally := t.tally,
                      diag := t.diag, extCount := t.extCount }
  ran : Ran s t

theorem Looked.refl (s : State) : Looked s s := ⟨rfl, [], (List.append_nil _).symm⟩

theorem Looked.trans {s t u : State} (h : Looked s t) (k : Looked t u) : Looked s u := by
  obtain ⟨h1, l, hl⟩ := h
  obtain ⟨k1, m, hm⟩ := k
  refine ⟨?_, l ++ m, by rw [hm, hl, List.append_assoc]⟩
  rw [k1, h1]

theorem OnBus.refl (s : State) : OnBus s s := ⟨rfl, .refl s⟩

theorem OnBus.trans {s t u : State} (h : OnBus s t) (k : OnBus t u) : OnBus s u := by
  obtain ⟨h1, hr⟩ := h
  obtain ⟨k1, kr⟩ := k
  refine ⟨?_, hr.trans kr⟩
  rw [k1, h1]

theorem Looked.ran {s t : State} (h : Looked s t) : Ran s t := by
  obtain ⟨h, hd⟩ := h
  rw [h]
  exact ⟨rfl, rfl, rfl, rfl, rfl, rfl, rfl, hd, fun m => ⟨m.1, m.2, m.3, m.4, m.5, m.6⟩,
    fun r => ⟨r.1, r.2, r.3, r.4, r.5, r.6, r.7⟩, fun _ => rfl, id, fun _ e => .inl e⟩

theorem Looked.onBus {s t : State} (h : Looked s t) : OnBus s t := by
  refine ⟨?_, h.ran⟩
  rw [h.same]

theorem Looked.log (s : State) (e : DiagEvent) : Looked s (s.log e) := ⟨rfl, [e], rfl⟩

theorem Looked.logIf (s : State) (b : Bool) (e : DiagEvent) : Looked s (s.logIf b e) := by
  cases b
  · exact .refl s
  · exact .log s e

/-! ### Reads -/

theorem account_looked (a : Word) (n c : Nat) (s : State) : Looked s (account a n c s) :=
  ⟨rfl, [], (List.append_nil _).symm⟩

theorem withExtCount_looked (s : State) (n : Nat) : Looked s (s.withExtCount n) := ⟨rfl, [], (List.append_nil _).symm⟩

theorem logBeyondRom_looked (a : Word) (n : Nat) (s : State) : Looked s (logBeyondRom a n s) := by
  induction n with
  | zero => exact .refl s
  | succ n ih => exact ih.trans (.logIf _ _ _)

theorem extRead_looked (d : Config.ExtDevice) (w : Width) (a : Word) (s : State) : Looked s (extRead d w a s).2 := by
  simp only [extRead]
  split
  · exact account_looked ..
  · exact (account_looked ..).trans (withExtCount_looked ..)

theorem unmappedRead8_looked (a : Word) (s : State) : Looked s (unmappedRead8 a s).2 :=
  (Looked.log ..).trans (account_looked ..)

theorem outerRead8_looked (a : Word) (s : State) : Looked s (outerRead8 a s).2 := by
  unfold outerRead8
  split
  · split
    · exact extRead_looked ..
    · exact unmappedRead8_looked ..
  · exact unmappedRead8_looked ..

theorem ioBytes_looked (a : Word) (n : Nat) (s : State) : Looked s (ioBytes a n s).2 := by
  induction n generalizing a s with
  | zero => exact .refl s
  | succ n ih =>
    simp only [ioBytes]
    refine Looked.trans ?_ (ih _ _)
    split
    · exact .refl s
    · exact outerRead8_looked ..

/-- A read that a device supports. -/
theorem nativeRead_looked {w : Width} {a : Word} {s : State} {r : Word × State} (h : nativeRead w a s = some r) :
    Looked s r.2 := by
  unfold nativeRead at h
  split at h
  · cases h; exact account_looked ..
  · cases h; exact account_looked ..
  · cases h; exact account_looked ..
  · cases h; exact (account_looked ..).trans (ioBytes_looked ..)
  · cases h; exact (logBeyondRom_looked ..).trans (account_looked ..)
  · split at h
    · cases h; exact extRead_looked ..
    · cases h
  · cases h

theorem read8_looked (a : Word) (s : State) : Looked s (read8 a s).2 := by
  unfold read8
  cases h : nativeRead .byte a s with
  | none => exact unmappedRead8_looked ..
  | some r => exact nativeRead_looked h

theorem read16_looked (a : Word) (s : State) : Looked s (read16 a s).2 := by
  unfold read16
  split
  · exact nativeRead_looked ‹_›
  · exact (read8_looked ..).trans (read8_looked ..)

theorem read32_looked (a : Word) (s : State) : Looked s (read32 a s).2 := by
  unfold read32
  split
  · exact nativeRead_looked ‹_›
  · exact (read16_looked ..).trans (read16_looked ..)

/-- Any read of the bus. -/
theorem memRead_looked (w : Width) (a : Word) (s : State) : Looked s (memRead w a s).2 := by
  cases w
  · exact read8_looked ..
  · exact read16_looked ..
  · exact read32_looked ..

/-! ### The register cells -/

/-- A cell of the DMA engine. -/
def Cell.isDma : Cell → Bool
  | .dmaSad _ | .dmaDad _ | .dmaCntL _ | .dmaCntH _ => true
  | .tmCntL _ | .tmCntH _ | .ie | .iflag | .waitcnt | .ime | .postflg | .haltcnt => false

theorem mergeMasked_masked {n : Nat} {raw mask v m : BitVec n} (h : raw &&& mask = raw) :
    mergeMasked raw mask v m &&& mask = mergeMasked raw mask v m := by
  have hb : ∀ i, (raw.getLsbD i && mask.getLsbD i) = raw.getLsbD i := fun i => by rw [← BitVec.getLsbD_and, h]
  apply BitVec.eq_of_getLsbD_eq
  intro i hi
  have := hb i
  simp only [mergeMasked, BitVec.getLsbD_and, BitVec.getLsbD_or, BitVec.getLsbD_not]
  grind

theorem iflag_ack_masked {f x : Half} (h : f &&& 0x3FFF#16 = f) : (f &&& ~~~x) &&& 0x3FFF#16 = f &&& ~~~x := by
  have hb : ∀ i, (f.getLsbD i && (0x3FFF#16).getLsbD i) = f.getLsbD i := fun i => by rw [← BitVec.getLsbD_and, h]
  apply BitVec.eq_of_getLsbD_eq
  intro i hi
  have := hb i
  simp only [BitVec.getLsbD_and, BitVec.getLsbD_not]
  grind

theorem Timer.ok_iff {t : Timer} : t.ok = true ↔ t.ctrl &&& 0x00C7#16 = t.ctrl ∧ t.sub < 1024 := by simp [Timer.ok]

theorem DmaChannel.ok_iff {c : DmaChannel} : c.ok = true ↔
    c.cntH &&& 0xFFE0#16 = c.cntH ∧ c.cntLatch ≤ 0x10000 ∧ (c.running = true ∨ c.enabled = true → 1 ≤ c.cntLatch) := by
  cases hr : c.running <;> cases he : c.enabled <;> simp [DmaChannel.ok, hr, he, and_assoc]

theorem Timer.ok_writeCtrl {t : Timer} (h : t.ok = true) (v m : Half) : (t.writeCtrl v m).ok = true := by
  obtain ⟨hc, hs⟩ := Timer.ok_iff.mp h
  unfold Timer.writeCtrl
  simp only
  split
  · exact Timer.ok_iff.mpr ⟨mergeMasked_masked hc, Nat.zero_lt_succ _⟩
  · exact Timer.ok_iff.mpr ⟨mergeMasked_masked hc, hs⟩

/-- The unit count of a channel is at least 1 and at most 65536 (R464). -/
theorem DmaChannel.count_bounds (x : Fin 4) (c : DmaChannel) : 1 ≤ c.count x ∧ c.count x ≤ 0x10000 := by
  have small : (c.cntL &&& 0x3FFF#16).toNat ≤ 0x3FFF := by
    rw [BitVec.toNat_and]
    exact Nat.and_le_right
  have pos : ∀ b : Half, b ≠ 0 → 1 ≤ b.toNat := fun b hb =>
    Nat.pos_of_ne_zero fun e => hb (BitVec.eq_of_toNat_eq (by simpa using e))
  unfold DmaChannel.count
  split
  · split
    · decide
    · exact ⟨pos _ ‹_›, Nat.le_of_lt c.cntL.isLt⟩
  · split
    · decide
    · exact ⟨pos _ ‹_›, by omega⟩

theorem DmaChannel.ok_writeCntH {c : DmaChannel} (h : c.ok = true) (x : Fin 4) (v m : Half) :
    (c.writeCntH x v m).ok = true := by
  obtain ⟨hc, hb, hp⟩ := DmaChannel.ok_iff.mp h
  unfold DmaChannel.writeCntH
  simp only
  split
  · exact DmaChannel.ok_iff.mpr ⟨mergeMasked_masked hc, (DmaChannel.count_bounds x _).2,
      fun _ => (DmaChannel.count_bounds x _).1⟩
  · rename_i hne
    refine DmaChannel.ok_iff.mpr ⟨mergeMasked_masked hc, hb, ?_⟩
    intro hre
    rcases hre with hr | he
    · exact hp (.inl hr)
    · cases hold : c.enabled
      · simp [hold] at hne
        exact absurd he (by simpa using hne)
      · exact hp (.inr hold)

/-- A write hook changes its own register and keeps the invariant's parts. -/
theorem onWrite_onBus {cell : Cell} {s : State} (v m : Word) (hd : cell.isDma = true → s.params.dmaPresent = true) :
    OnBus s (cell.onWrite v m s) := by
  cases cell with
  | tmCntL k => exact ⟨rfl, ran_withTimer s k _ fun h => h⟩
  | tmCntH k => exact ⟨rfl, ran_withTimer s k _ fun h => Timer.ok_writeCtrl h _ _⟩
  | ie => exact ⟨rfl, ran_withIe s _ fun h => mergeMasked_masked h⟩
  | iflag => exact ⟨rfl, ran_withIflag s _ fun h => iflag_ack_masked h⟩
  | waitcnt => exact ⟨rfl, ran_withWaitcnt s _ fun h => mergeMasked_masked h⟩
  | ime => exact ⟨rfl, ran_withIme s _ fun h => mergeMasked_masked h⟩
  | postflg => exact ⟨rfl, ran_withPostflg s _ fun h => mergeMasked_masked h⟩
  | haltcnt => exact ⟨rfl, ran_withHalted s _⟩
  | dmaSad x => exact ⟨rfl, ran_withDma s x _ (hd rfl) fun h => h⟩
  | dmaDad x => exact ⟨rfl, ran_withDma s x _ (hd rfl) fun h => h⟩
  | dmaCntL x => exact ⟨rfl, ran_withDma s x _ (hd rfl) fun h => h⟩
  | dmaCntH x => exact ⟨rfl, ran_withDma s x _ (hd rfl) fun h => DmaChannel.ok_writeCntH h x _ _⟩

/-! ### Writes -/

theorem OnBus.params {s t : State} (h : OnBus s t) : t.params = s.params := h.ran.params

theorem writeCells_onBus (a n : Nat) (v : Word) (cells : List Cell) (s : State)
    (hd : ∀ cell ∈ cells, cell.isDma = true → s.params.dmaPresent = true) : OnBus s (writeCells a n v cells s) := by
  induction cells generalizing s with
  | nil => exact .refl s
  | cons cell rest ih =>
    have first : OnBus s
        (if cell.overlaps a n then
          cell.onWrite (toLanes cell.base a v) (toLanes cell.base a (byteMask n) &&& byteMask cell.width) s
        else s) := by
      split
      · exact onWrite_onBus _ _ (hd cell (List.mem_cons_self ..))
      · exact .refl s
    exact first.trans (ih _ fun c hc hi => first.params ▸ hd c (List.mem_cons_of_mem _ hc) hi)

/-- The cells of the DMA engine exist only with the engine (R462). -/
theorem allCells_dma {p : Config.Params} {cell : Cell} (h : cell ∈ allCells p) (hi : cell.isDma = true) :
    p.dmaPresent = true := by
  unfold allCells at h
  split at h
  · assumption
  · have : ∀ c ∈ coreCells, Cell.isDma c = false := by decide
    rw [this cell h] at hi
    cases hi

theorem Memory.ok_iff {m : Memory} {n : Nat} : m.ok n = true ↔ m.wf = true ∧ m.below n = true := by simp [Memory.ok]

theorem Memory.ok_setBytes {m : Memory} {k : Nat} (h : m.ok k = true) (place : Nat → Nat) (v : Nat → Byte) (n : Nat)
    (hp : ∀ i, i < n → place i < k) : (m.setBytes place v n).ok k = true := by
  obtain ⟨hw, hb⟩ := Memory.ok_iff.mp h
  exact Memory.ok_iff.mpr ⟨Memory.wf_setBytes hw _ _ _, Memory.below_setBytes hb _ _ _ hp⟩

theorem ewramOffset_lt (a : Word) : ewramOffset a < Config.ewramSize := by
  rw [ewramOffset, BitVec.toNat_and]
  exact Nat.lt_of_le_of_lt Nat.and_le_right (by decide)

theorem iwramOffset_lt (a : Word) : iwramOffset a < Config.iwramSize := by
  rw [iwramOffset, BitVec.toNat_and]
  exact Nat.lt_of_le_of_lt Nat.and_le_right (by decide)

theorem withEwram_onBus (s : State) (place : Nat → Word) (v : Nat → Byte) (n : Nat) :
    OnBus s (s.withEwram (s.ewram.setBytes (fun i => ewramOffset (place i)) v n)) :=
  ⟨rfl, ran_withEwram s _ fun h => Memory.ok_setBytes h _ _ _ fun _ _ => ewramOffset_lt _⟩

theorem withIwram_onBus (s : State) (place : Nat → Word) (v : Nat → Byte) (n : Nat) :
    OnBus s (s.withIwram (s.iwram.setBytes (fun i => iwramOffset (place i)) v n)) :=
  ⟨rfl, ran_withIwram s _ fun h => Memory.ok_setBytes h _ _ _ fun _ _ => iwramOffset_lt _⟩

theorem withExtMem_onBus (s : State) (place : Nat → Nat) (v : Nat → Byte) (n : Nat) :
    OnBus s (s.withExtMem (s.extMem.setBytes place v n)) :=
  ⟨rfl, ran_withExtMem s _ fun h => Memory.wf_setBytes h _ _ _⟩

theorem account_onBus (a : Word) (n c : Nat) (s : State) : OnBus s (account a n c s) := (account_looked ..).onBus

theorem extWrite_onBus (d : Config.ExtDevice) (w : Width) (a v : Word) (s : State) : OnBus s (extWrite d w a v s) := by
  simp only [extWrite]
  split
  · exact (account_onBus ..).trans (withExtMem_onBus (account a w.size _ s) _ _ _)
  · exact account_onBus ..

theorem unmappedWrite8_onBus (a : Word) (s : State) : OnBus s (unmappedWrite8 a s) :=
  ((Looked.log ..).trans (account_looked ..)).onBus

theorem outerWrite8_onBus (a v : Word) (s : State) : OnBus s (outerWrite8 a v s) := by
  unfold outerWrite8
  split
  · split
    · exact extWrite_onBus ..
    · exact unmappedWrite8_onBus ..
  · exact unmappedWrite8_onBus ..

theorem ioOuterWrites_onBus (a v : Word) (n : Nat) (s : State) : OnBus s (ioOuterWrites a v n s) := by
  induction n with
  | zero => exact .refl s
  | succ n ih =>
    simp only [ioOuterWrites]
    split
    · exact ih
    · exact ih.trans (outerWrite8_onBus ..)

theorem ioWrite_onBus (w : Width) (a v : Word) (s : State) : OnBus s (ioWrite w a v s) := by
  refine OnBus.trans ?_ (ioOuterWrites_onBus ..)
  exact (account_onBus ..).trans (writeCells_onBus _ _ _ _ _ fun c hc hi => allCells_dma hc hi)

/-- A write that a device supports. -/
theorem nativeWrite_onBus {w : Width} {a v : Word} {s t : State} (h : nativeWrite w a v s = some t) : OnBus s t := by
  unfold nativeWrite at h
  split at h
  · cases h; exact account_onBus ..
  · cases h; exact (account_onBus ..).trans (withEwram_onBus (account a w.size _ s) _ _ _)
  · cases h; exact (account_onBus ..).trans (withIwram_onBus (account a w.size _ s) _ _ _)
  · cases h; exact ioWrite_onBus ..
  · cases h; exact account_onBus ..
  · split at h
    · cases h; exact extWrite_onBus ..
    · cases h
  · cases h

theorem write8_onBus (a v : Word) (s : State) : OnBus s (write8 a v s) := by
  unfold write8
  cases h : nativeWrite .byte a v s with
  | none => exact unmappedWrite8_onBus ..
  | some r => exact nativeWrite_onBus h

theorem write16_onBus (a v : Word) (s : State) : OnBus s (write16 a v s) := by
  unfold write16
  split
  · exact nativeWrite_onBus ‹_›
  · exact (write8_onBus ..).trans (write8_onBus ..)

theorem write32_onBus (a v : Word) (s : State) : OnBus s (write32 a v s) := by
  unfold write32
  split
  · exact nativeWrite_onBus ‹_›
  · exact (write16_onBus ..).trans (write16_onBus ..)

/-- Any write of the bus. -/
theorem memWrite_onBus (w : Width) (a v : Word) (s : State) : OnBus s (memWrite w a v s) := by
  cases w
  · exact write8_onBus ..
  · exact write16_onBus ..
  · exact write32_onBus ..

end Sys2Proof.Machine
end

