-- ==== Sys2Proof/Laws/Encoding.lean ====
section
/-! SUPPORT. The decoder on encoded words: which tag the priority lists give each encoded layout (R121 to R123), and the
fields read back. A word is known by some of its bits; the lists are walked on those bits alone, by `decide`. -/

set_option Elab.async false
set_option linter.unusedSimpArgs false

namespace Sys2Proof.Laws


/-- A field that lies in the low part of an append. -/
theorem ext_append_lo {j k lo n : Nat} {x : BitVec j} {y : BitVec k} (h : lo + n ≤ k) :
    (x ++ y).extractLsb' lo n = y.extractLsb' lo n := by
  apply BitVec.eq_of_getLsbD_eq
  intro i hi
  simp only [BitVec.getLsbD_extractLsb', BitVec.getLsbD_append]
  rw [if_pos (by omega)]

/-- A field that lies in the high part of an append. -/
theorem ext_append_hi {j k lo n : Nat} {x : BitVec j} {y : BitVec k} (h : k ≤ lo) :
    (x ++ y).extractLsb' lo n = x.extractLsb' (lo - k) n := by
  apply BitVec.eq_of_getLsbD_eq
  intro i hi
  simp only [BitVec.getLsbD_extractLsb', BitVec.getLsbD_append]
  rw [if_neg (by omega)]
  congr 2; omega

/-- A bit of the low part of an append. -/
theorem bit_append_lo {j k i : Nat} {x : BitVec j} {y : BitVec k} (h : i < k) :
    (x ++ y).getLsbD i = y.getLsbD i := by simp [BitVec.getLsbD_append, h]

/-- A bit of the high part of an append. -/
theorem bit_append_hi {j k i : Nat} {x : BitVec j} {y : BitVec k} (h : k ≤ i) :
    (x ++ y).getLsbD i = x.getLsbD (i - k) := by
  simp [BitVec.getLsbD_append, Nat.not_lt.mpr h]

/-- Walking a priority list for a word of which only the bits `k` are known, to be `v`: an entry that a known bit
rules out is passed, an entry decided by known bits alone answers, anything else is not decided. -/
def resolve {n : Nat} (k v : BitVec n) : List (BitVec n × BitVec n × Tag) → Option Tag
  | [] => none
  | (m, p, t) :: rest =>
    if m &&& k &&& (p ^^^ v) ≠ 0 then resolve k v rest
    else if m &&& ~~~k = 0 ∧ m &&& v = p then some t else none

/-- What the known bits decide is what `Decode` answers (R121). -/
theorem classify_of_resolve {n : Nat} {k v w : BitVec n} (h : w &&& k = v) {t : Tag} :
    ∀ l, resolve k v l = some t → classify l w = some t := by
  intro l
  induction l with
  | nil => simp [resolve]
  | cons e rest ih =>
    obtain ⟨m, p, t'⟩ := e
    simp only [resolve, classify]
    split
    · intro hr
      rw [if_neg]
      · exact ih hr
      · rintro rfl
        apply ‹m &&& k &&& (w &&& m ^^^ v) ≠ 0›
        subst h
        ext i hi
        simp
        grind
    · split
      · rename_i h1 h2
        intro ht
        rw [if_pos, ht]
        obtain ⟨h3, h4⟩ := h2
        subst h h4
        ext i hi
        have := congrArg (fun b => b.getLsbD i) h3
        simp at this ⊢
        grind
      · intro h; cases h

/-- A known field as known bits. -/
theorem known_field {N : Nat} {w : BitVec N} {lo n : Nat} {v : BitVec n} (h : w.extractLsb' lo n = v) :
    w &&& ((BitVec.allOnes n).setWidth N <<< lo) = v.setWidth N <<< lo := by
  subst h
  ext i hi
  simp
  grind

/-- Two sets of known bits together. -/
theorem known_or {N : Nat} {w k1 k2 v1 v2 : BitVec N} (h1 : w &&& k1 = v1) (h2 : w &&& k2 = v2) :
    w &&& (k1 ||| k2) = v1 ||| v2 := by
  subst h1 h2
  ext i hi; simp; grind

/-- The ARM tag from known bits. -/
theorem armTag_of {k v w : Word} (h : w &&& k = v) (t) (hr : resolve k v armList = some t) : armTag w = t := by
  simp [armTag, classify_of_resolve h _ hr]

/-- The THUMB tag from known bits. -/
theorem thumbTag_of {k v w : Half} (h : w &&& k = v) (t) (hr : resolve k v thumbList = some t) : thumbTag w = t := by
  simp [thumbTag, classify_of_resolve h _ hr]

/-- No entry of the list matches a word of which the bits `k` are known to be `v`. -/
def noEntry {n : Nat} (k v : BitVec n) (l : List (BitVec n × BitVec n × Tag)) : Bool :=
  l.all fun e => e.1 &&& k &&& (e.2.1 ^^^ v) != 0

/-- A word that known bits keep from every entry has no tag. -/
theorem classify_of_noEntry {n : Nat} {k v w : BitVec n} (h : w &&& k = v) :
    ∀ l, noEntry k v l = true → classify l w = none := by
  intro l
  induction l with
  | nil => intro _; rfl
  | cons e rest ih =>
    obtain ⟨m, p, t⟩ := e
    intro hn
    simp only [noEntry, List.all_cons, Bool.and_eq_true, bne_iff_ne] at hn
    rw [classify, if_neg]
    · exact ih hn.2
    · rintro rfl
      apply hn.1
      subst h
      ext i hi
      simp
      grind

/-- A halfword that no entry matches is undefined (R123). -/
theorem thumbTag_none {k v w : Half} (h : w &&& k = v) (hn : noEntry k v thumbList = true) : thumbTag w = .tUND := by
  simp [thumbTag, classify_of_noEntry h _ hn]

/-- A condition survives its code. -/
theorem cond_code (c : Cond) : Cond.ofCode c.code = c := by cases c <;> rfl

/-- A shift kind survives its code. -/
theorem kind_code (k : ShiftKind) : ShiftKind.ofCode k.code = k := by cases k <;> rfl

/-- A register number survives its field. -/
theorem reg_bits (r : Reg) : (Reg.bits r).toFin = r := rfl

/-- A THUMB register number survives its field. -/
theorem loReg_bits (r : LoReg) : (LoReg.bits r).toFin = r := rfl

/-- A flag survives its bit. -/
theorem bit_ofBool (b : Bool) : (bitOf b)[0] = b := by cases b <;> rfl

/-- The two halves of an 8-bit offset joined again. -/
theorem join8 (x : BitVec 8) : x.extractLsb' 4 4 ++ x.extractLsb' 0 4 = x := BitVec.extractLsb'_append_extractLsb'

/-- A register number split as format 5 splits it, joined again. -/
theorem joinReg (r : Reg) : ((Reg.bits r).extractLsb' 3 1 ++ (Reg.bits r).extractLsb' 0 3).toFin = r :=
  congrArg BitVec.toFin (BitVec.extractLsb'_append_extractLsb' (x := Reg.bits r) (w := 1) (len := 3))

/-- The immediate form of the second operand. -/
theorem decodeOperand2_imm {w : Word} (h : w.getLsbD 25 = true) :
    decodeOperand2 w = .imm (w.extractLsb' 8 4) (w.extractLsb' 0 8) := by
  rw [decodeOperand2, if_pos h]

/-- The form shifted by a field. -/
theorem decodeOperand2_regImm {w : Word} (h : w.getLsbD 25 = false) (h4 : w.getLsbD 4 = false) :
    decodeOperand2 w = .regImm (regAt w 0) (ShiftKind.ofCode (w.extractLsb' 5 2)) (w.extractLsb' 7 5) := by
  rw [decodeOperand2, if_neg (by rw [h]; decide), if_neg (by rw [h4]; decide)]

/-- The form shifted by a register. -/
theorem decodeOperand2_regReg {w : Word} (h : w.getLsbD 25 = false) (h4 : w.getLsbD 4 = true) :
    decodeOperand2 w = .regReg (regAt w 0) (ShiftKind.ofCode (w.extractLsb' 5 2)) (regAt w 8) := by
  rw [decodeOperand2, if_neg (by rw [h]; decide), if_pos h4]
/-- Entry A3. -/
theorem tag_mul (c : Cond) (a : BitVec 1) (sf : Bool) (rd : Reg) (rn : BitVec 4) (rs rm : Reg) :
    armTag (c.code ++ (0b000000#6 ++ a ++ bitOf sf ++ Reg.bits rd ++ rn ++ Reg.bits rs ++ 0b1001#4 ++ Reg.bits rm : BitVec 28)) = .aMUL :=
  armTag_of (known_or (known_field (lo := 22) (n := 6) (v := 0) (by simp (disch := decide) only [ext_append_lo, ext_append_hi]; rfl))
    (known_field (lo := 4) (n := 4) (v := 9) (by simp (disch := decide) only [ext_append_lo, ext_append_hi]; rfl))) _ (by decide)

/-- Entry A4. -/
theorem tag_mull (c : Cond) (ua : BitVec 2) (sf : Bool) (rdHi rdLo rs rm : Reg) :
    armTag (c.code ++ (0b00001#5 ++ ua ++ bitOf sf ++ Reg.bits rdHi ++ Reg.bits rdLo ++ Reg.bits rs ++ 0b1001#4 ++ Reg.bits rm : BitVec 28)) = .aMULL :=
  armTag_of (known_or (known_field (lo := 23) (n := 5) (v := 1) (by simp (disch := decide) only [ext_append_lo, ext_append_hi]; rfl))
    (known_field (lo := 4) (n := 4) (v := 9) (by simp (disch := decide) only [ext_append_lo, ext_append_hi]; rfl))) _ (by decide)

/-- Entry A1. -/
theorem tag_bx (c : Cond) (rn : Reg) :
    armTag (c.code ++ (0b000100101111111111110001#24 ++ Reg.bits rn : BitVec 28)) = .aBX :=
  armTag_of (known_field (lo := 4) (n := 24) (v := 1245169) (by simp (disch := decide) only [ext_append_lo, ext_append_hi]; rfl)) _ (by decide)

/-- Entry A2. -/
theorem tag_bkpt (c : Cond) (imm12 : BitVec 12) (imm4 : BitVec 4) :
    armTag (c.code ++ (0b00010010#8 ++ imm12 ++ 0b0111#4 ++ imm4 : BitVec 28)) = .aBKPT :=
  armTag_of (known_or (known_field (lo := 20) (n := 8) (v := 18) (by simp (disch := decide) only [ext_append_lo, ext_append_hi]; rfl))
    (known_field (lo := 4) (n := 4) (v := 7) (by simp (disch := decide) only [ext_append_lo, ext_append_hi]; rfl))) _ (by decide)

/-- Entry A5, a word. -/
theorem tag_swp (c : Cond) (rn rd rm : Reg) :
    armTag (c.code ++ (0b00010000#8 ++ Reg.bits rn ++ Reg.bits rd ++ 0b00001001#8 ++ Reg.bits rm : BitVec 28)) = .aSWP :=
  armTag_of (known_or (known_field (lo := 20) (n := 8) (v := 16) (by simp (disch := decide) only [ext_append_lo, ext_append_hi]; rfl))
    (known_field (lo := 4) (n := 8) (v := 9) (by simp (disch := decide) only [ext_append_lo, ext_append_hi]; rfl))) _ (by decide)

/-- Entry A5, a byte. -/
theorem tag_swpb (c : Cond) (rn rd rm : Reg) :
    armTag (c.code ++ (0b00010100#8 ++ Reg.bits rn ++ Reg.bits rd ++ 0b00001001#8 ++ Reg.bits rm : BitVec 28)) = .aSWP :=
  armTag_of (known_or (known_field (lo := 20) (n := 8) (v := 20) (by simp (disch := decide) only [ext_append_lo, ext_append_hi]; rfl))
    (known_field (lo := 4) (n := 8) (v := 9) (by simp (disch := decide) only [ext_append_lo, ext_append_hi]; rfl))) _ (by decide)

/-- Entry A7. -/
theorem tag_undLdrdStrd (c : Cond) (puiw : BitVec 4) (mid : BitVec 12) (h : Bool) (lo : BitVec 4) :
    armTag (c.code ++ (0b000#3 ++ puiw ++ 0#1 ++ mid ++ 0b11#2 ++ bitOf h ++ 1#1 ++ lo : BitVec 28)) = .aUND :=
  armTag_of (known_or (known_or (known_or (known_field (lo := 25) (n := 3) (v := 0) (by simp (disch := decide) only [ext_append_lo, ext_append_hi]; rfl))
    (known_field (lo := 20) (n := 1) (v := 0) (by simp (disch := decide) only [ext_append_lo, ext_append_hi]; rfl)))
    (known_field (lo := 6) (n := 2) (v := 3) (by simp (disch := decide) only [ext_append_lo, ext_append_hi]; rfl)))
    (known_field (lo := 4) (n := 1) (v := 1) (by simp (disch := decide) only [ext_append_lo, ext_append_hi]; rfl))) _ (by decide)

/-- Entry A8, L = 1 and SH = 1. -/
theorem tag_half_1_1 (c : Cond) (p u i w : BitVec 1) (rn rd : Reg) (hi lo : BitVec 4) :
    armTag (c.code ++ (0b000#3 ++ p ++ u ++ i ++ w ++ 1#1 ++ Reg.bits rn ++ Reg.bits rd ++ hi ++ 1#1 ++ 1#2 ++ 1#1 ++ lo : BitVec 28)) = .aHDT :=
  armTag_of (known_or (known_or (known_or (known_or (known_field (lo := 25) (n := 3) (v := 0) (by simp (disch := decide) only [ext_append_lo, ext_append_hi]; rfl))
    (known_field (lo := 20) (n := 1) (v := 1) (by simp (disch := decide) only [ext_append_lo, ext_append_hi]; rfl)))
    (known_field (lo := 7) (n := 1) (v := 1) (by simp (disch := decide) only [ext_append_lo, ext_append_hi]; rfl)))
    (known_field (lo := 5) (n := 2) (v := 1) (by simp (disch := decide) only [ext_append_lo, ext_append_hi]; rfl)))
    (known_field (lo := 4) (n := 1) (v := 1) (by simp (disch := decide) only [ext_append_lo, ext_append_hi]; rfl))) _ (by decide)

/-- Entry A8, L = 0 and SH = 1. -/
theorem tag_half_0_1 (c : Cond) (p u i w : BitVec 1) (rn rd : Reg) (hi lo : BitVec 4) :
    armTag (c.code ++ (0b000#3 ++ p ++ u ++ i ++ w ++ 0#1 ++ Reg.bits rn ++ Reg.bits rd ++ hi ++ 1#1 ++ 1#2 ++ 1#1 ++ lo : BitVec 28)) = .aHDT :=
  armTag_of (known_or (known_or (known_or (known_or (known_field (lo := 25) (n := 3) (v := 0) (by simp (disch := decide) only [ext_append_lo, ext_append_hi]; rfl))
    (known_field (lo := 20) (n := 1) (v := 0) (by simp (disch := decide) only [ext_append_lo, ext_append_hi]; rfl)))
    (known_field (lo := 7) (n := 1) (v := 1) (by simp (disch := decide) only [ext_append_lo, ext_append_hi]; rfl)))
    (known_field (lo := 5) (n := 2) (v := 1) (by simp (disch := decide) only [ext_append_lo, ext_append_hi]; rfl)))
    (known_field (lo := 4) (n := 1) (v := 1) (by simp (disch := decide) only [ext_append_lo, ext_append_hi]; rfl))) _ (by decide)

/-- Entry A8, L = 1 and SH = 2. -/
theorem tag_half_1_2 (c : Cond) (p u i w : BitVec 1) (rn rd : Reg) (hi lo : BitVec 4) :
    armTag (c.code ++ (0b000#3 ++ p ++ u ++ i ++ w ++ 1#1 ++ Reg.bits rn ++ Reg.bits rd ++ hi ++ 1#1 ++ 2#2 ++ 1#1 ++ lo : BitVec 28)) = .aHDT :=
  armTag_of (known_or (known_or (known_or (known_or (known_field (lo := 25) (n := 3) (v := 0) (by simp (disch := decide) only [ext_append_lo, ext_append_hi]; rfl))
    (known_field (lo := 20) (n := 1) (v := 1) (by simp (disch := decide) only [ext_append_lo, ext_append_hi]; rfl)))
    (known_field (lo := 7) (n := 1) (v := 1) (by simp (disch := decide) only [ext_append_lo, ext_append_hi]; rfl)))
    (known_field (lo := 5) (n := 2) (v := 2) (by simp (disch := decide) only [ext_append_lo, ext_append_hi]; rfl)))
    (known_field (lo := 4) (n := 1) (v := 1) (by simp (disch := decide) only [ext_append_lo, ext_append_hi]; rfl))) _ (by decide)

/-- Entry A8, L = 1 and SH = 3. -/
theorem tag_half_1_3 (c : Cond) (p u i w : BitVec 1) (rn rd : Reg) (hi lo : BitVec 4) :
    armTag (c.code ++ (0b000#3 ++ p ++ u ++ i ++ w ++ 1#1 ++ Reg.bits rn ++ Reg.bits rd ++ hi ++ 1#1 ++ 3#2 ++ 1#1 ++ lo : BitVec 28)) = .aHDT :=
  armTag_of (known_or (known_or (known_or (known_or (known_field (lo := 25) (n := 3) (v := 0) (by simp (disch := decide) only [ext_append_lo, ext_append_hi]; rfl))
    (known_field (lo := 20) (n := 1) (v := 1) (by simp (disch := decide) only [ext_append_lo, ext_append_hi]; rfl)))
    (known_field (lo := 7) (n := 1) (v := 1) (by simp (disch := decide) only [ext_append_lo, ext_append_hi]; rfl)))
    (known_field (lo := 5) (n := 2) (v := 3) (by simp (disch := decide) only [ext_append_lo, ext_append_hi]; rfl)))
    (known_field (lo := 4) (n := 1) (v := 1) (by simp (disch := decide) only [ext_append_lo, ext_append_hi]; rfl))) _ (by decide)

/-- Entry A9, the immediate form. -/
theorem tag_dp_imm (c : Cond) (op : BitVec 4) (sf : Bool) (rn rd : BitVec 4) (rot : BitVec 4) (imm8 : BitVec 8) :
    armTag (c.code ++ (0b00#2 ++ 1#1 ++ op ++ bitOf sf ++ rn ++ rd ++ (rot ++ imm8 : BitVec 12) : BitVec 28)) = .aDP :=
  armTag_of (known_or (known_field (lo := 26) (n := 2) (v := 0) (by simp (disch := decide) only [ext_append_lo, ext_append_hi]; rfl))
    (known_field (lo := 25) (n := 1) (v := 1) (by simp (disch := decide) only [ext_append_lo, ext_append_hi]; rfl))) _ (by decide)

/-- Entry A9, a register shifted by a field. -/
theorem tag_dp_regImm (c : Cond) (op : BitVec 4) (sf : Bool) (rn rd : BitVec 4) (imm5 : BitVec 5) (k : BitVec 2) (rm : Reg) :
    armTag (c.code ++ (0b00#2 ++ 0#1 ++ op ++ bitOf sf ++ rn ++ rd ++ (imm5 ++ k ++ 0#1 ++ Reg.bits rm : BitVec 12) : BitVec 28)) = .aDP :=
  armTag_of (known_or (known_or (known_field (lo := 26) (n := 2) (v := 0) (by simp (disch := decide) only [ext_append_lo, ext_append_hi]; rfl))
    (known_field (lo := 25) (n := 1) (v := 0) (by simp (disch := decide) only [ext_append_lo, ext_append_hi]; rfl)))
    (known_field (lo := 4) (n := 1) (v := 0) (by simp (disch := decide) only [ext_append_lo, ext_append_hi]; rfl))) _ (by decide)

/-- Entry A9, a register shifted by a register: S = 1, or an operation other than the tests. -/
theorem tag_dp_regReg (c : Cond) (op : BitVec 4) (sf : Bool) (rn rd : BitVec 4) (k : BitVec 2) (rs rm : Reg)
    (h : op.extractLsb' 3 1 = 0#1 ∨ op.extractLsb' 2 2 = 3#2 ∨ sf = true) :
    armTag (c.code ++ (0b00#2 ++ 0#1 ++ op ++ bitOf sf ++ rn ++ rd ++
      (Reg.bits rs ++ 0#1 ++ k ++ 1#1 ++ Reg.bits rm : BitVec 12) : BitVec 28)) = .aDP := by
  have base := fun w (h26 : BitVec.extractLsb' 26 2 w = 0#2) (h25 : w.extractLsb' 25 1 = 0#1)
    (h7 : w.extractLsb' 7 1 = 0#1) (h4 : w.extractLsb' 4 1 = 1#1) =>
    known_or (known_or (known_field h26) (known_field h25)) (known_or (known_field h7) (known_field (N := 32) h4))
  have known := base (c.code ++ (0b00#2 ++ 0#1 ++ op ++ bitOf sf ++ rn ++ rd ++
      (Reg.bits rs ++ 0#1 ++ k ++ 1#1 ++ Reg.bits rm : BitVec 12) : BitVec 28))
    (by simp (disch := decide) only [ext_append_lo, ext_append_hi]; rfl) (by simp (disch := decide) only [ext_append_lo, ext_append_hi]; rfl) (by simp (disch := decide) only [ext_append_lo, ext_append_hi]; rfl) (by simp (disch := decide) only [ext_append_lo, ext_append_hi]; rfl)
  rcases h with h | h | rfl
  · exact armTag_of (known_or (known_field (lo := 24) (n := 1) (v := 0)
      (by simp (disch := decide) only [ext_append_lo, ext_append_hi]; exact h)) known) _ (by decide)
  · exact armTag_of (known_or (known_field (lo := 23) (n := 2) (v := 3)
      (by simp (disch := decide) only [ext_append_lo, ext_append_hi]; exact h)) known) _ (by decide)
  · exact armTag_of (known_or (known_field (lo := 20) (n := 1) (v := 1) (by simp (disch := decide) only [ext_append_lo, ext_append_hi]; rfl)) known) _ (by decide)

/-- Data processing in each form of its second operand. -/
theorem tag_dp (c : Cond) (op : BitVec 4) (sf : Bool) (rn rd : BitVec 4) (op2 : Operand2)
    (h : op.extractLsb' 3 1 = 0#1 ∨ op.extractLsb' 2 2 = 3#2 ∨ sf = true) :
    armTag (c.code ++ (0b00#2 ++ bitOf op2.isImm ++ op ++ bitOf sf ++ rn ++ rd ++ op2.bits : BitVec 28)) = .aDP := by
  cases op2 with
  | imm rot imm8 => exact tag_dp_imm c op sf rn rd rot imm8
  | regImm rm kind imm5 => exact tag_dp_regImm c op sf rn rd imm5 kind.code rm
  | regReg rm kind rs => exact tag_dp_regReg c op sf rn rd kind.code rs rm h

/-- The second operand of an encoded data-processing word. -/
theorem operand2_dp (c : Cond) (op : BitVec 4) (sf : Bool) (rn rd : BitVec 4) (op2 : Operand2) :
    decodeOperand2 (c.code ++ (0b00#2 ++ bitOf op2.isImm ++ op ++ bitOf sf ++ rn ++ rd ++ op2.bits : BitVec 28)) = op2 := by
  cases op2 with
  | imm rot imm8 =>
    simp only [Operand2.isImm, Operand2.bits]
    rw [decodeOperand2_imm (by simp (disch := decide) only [bit_append_lo, bit_append_hi]; rfl)]
    simp (disch := decide) only [ext_append_lo, ext_append_hi]
    simp
  | regImm rm kind imm5 =>
    simp only [Operand2.isImm, Operand2.bits]
    rw [decodeOperand2_regImm (by simp (disch := decide) only [bit_append_lo, bit_append_hi]; rfl)
      (by simp (disch := decide) only [bit_append_lo, bit_append_hi]; rfl)]
    simp (disch := decide) only [regAt, ext_append_lo, ext_append_hi]
    simp [kind_code, reg_bits]
  | regReg rm kind rs =>
    simp only [Operand2.isImm, Operand2.bits]
    rw [decodeOperand2_regReg (by simp (disch := decide) only [bit_append_lo, bit_append_hi]; rfl)
      (by simp (disch := decide) only [bit_append_lo, bit_append_hi]; rfl)]
    simp (disch := decide) only [regAt, ext_append_lo, ext_append_hi]
    simp [kind_code, reg_bits]

/-- Entry A9, MRS. -/
theorem tag_mrs (c : Cond) (p : BitVec 1) (rd : Reg) :
    armTag (c.code ++ (0b00010#5 ++ p ++ 0b001111#6 ++ Reg.bits rd ++ 0#12 : BitVec 28)) = .aDP :=
  armTag_of (known_or (known_or (known_field (lo := 23) (n := 5) (v := 2) (by simp (disch := decide) only [ext_append_lo, ext_append_hi]; rfl))
    (known_field (lo := 16) (n := 6) (v := 15) (by simp (disch := decide) only [ext_append_lo, ext_append_hi]; rfl)))
    (known_field (lo := 0) (n := 12) (v := 0) (by simp (disch := decide) only [ext_append_lo, ext_append_hi]; rfl))) _ (by decide)

/-- Entry A9, MRS with bit 25 = 1. -/
theorem tag_mrs25 (c : Cond) (p : BitVec 1) (rd : Reg) :
    armTag (c.code ++ (0b00110#5 ++ p ++ 0b001111#6 ++ Reg.bits rd ++ 0#12 : BitVec 28)) = .aDP :=
  armTag_of (known_or (known_or (known_field (lo := 23) (n := 5) (v := 6) (by simp (disch := decide) only [ext_append_lo, ext_append_hi]; rfl))
    (known_field (lo := 16) (n := 6) (v := 15) (by simp (disch := decide) only [ext_append_lo, ext_append_hi]; rfl)))
    (known_field (lo := 0) (n := 12) (v := 0) (by simp (disch := decide) only [ext_append_lo, ext_append_hi]; rfl))) _ (by decide)

/-- Entry A9, MSR from a register. -/
theorem tag_msrReg (c : Cond) (p : BitVec 1) (fsxc : BitVec 4) (rm : Reg) :
    armTag (c.code ++ (0b00010#5 ++ p ++ 0b10#2 ++ fsxc ++ 0b111100000000#12 ++ Reg.bits rm : BitVec 28)) = .aDP :=
  armTag_of (known_or (known_or (known_field (lo := 23) (n := 5) (v := 2) (by simp (disch := decide) only [ext_append_lo, ext_append_hi]; rfl))
    (known_field (lo := 20) (n := 2) (v := 2) (by simp (disch := decide) only [ext_append_lo, ext_append_hi]; rfl)))
    (known_field (lo := 4) (n := 12) (v := 3840) (by simp (disch := decide) only [ext_append_lo, ext_append_hi]; rfl))) _ (by decide)

/-- Entry A9, MSR from an immediate. -/
theorem tag_msrImm (c : Cond) (p : BitVec 1) (fsxc rot : BitVec 4) (imm8 : BitVec 8) :
    armTag (c.code ++ (0b00110#5 ++ p ++ 0b10#2 ++ fsxc ++ 0b1111#4 ++ rot ++ imm8 : BitVec 28)) = .aDP :=
  armTag_of (known_field (lo := 23) (n := 5) (v := 6) (by simp (disch := decide) only [ext_append_lo, ext_append_hi]; rfl)) _ (by decide)

/-- Entry A10. -/
theorem tag_und (c : Cond) (hi : BitVec 20) (lo : BitVec 4) :
    armTag (c.code ++ (0b011#3 ++ hi ++ 1#1 ++ lo : BitVec 28)) = .aUND :=
  armTag_of (known_or (known_field (lo := 25) (n := 3) (v := 3) (by simp (disch := decide) only [ext_append_lo, ext_append_hi]; rfl))
    (known_field (lo := 4) (n := 1) (v := 1) (by simp (disch := decide) only [ext_append_lo, ext_append_hi]; rfl))) _ (by decide)

/-- Entry A11, an immediate offset. -/
theorem tag_single_imm (c : Cond) (p u b w l : BitVec 1) (rn rd : Reg) (off12 : BitVec 12) :
    armTag (c.code ++ (0b01#2 ++ 0#1 ++ p ++ u ++ b ++ w ++ l ++ Reg.bits rn ++ Reg.bits rd ++ off12 : BitVec 28)) = .aSDT :=
  armTag_of (known_or (known_field (lo := 26) (n := 2) (v := 1) (by simp (disch := decide) only [ext_append_lo, ext_append_hi]; rfl))
    (known_field (lo := 25) (n := 1) (v := 0) (by simp (disch := decide) only [ext_append_lo, ext_append_hi]; rfl))) _ (by decide)

/-- Entry A11, a register offset. -/
theorem tag_single_reg (c : Cond) (p u b w l : BitVec 1) (rn rd : Reg) (imm5 : BitVec 5) (k : BitVec 2) (rm : Reg) :
    armTag (c.code ++ (0b01#2 ++ 1#1 ++ p ++ u ++ b ++ w ++ l ++ Reg.bits rn ++ Reg.bits rd ++ (imm5 ++ k ++ 0#1 ++ Reg.bits rm : BitVec 12) : BitVec 28)) = .aSDT :=
  armTag_of (known_or (known_or (known_field (lo := 26) (n := 2) (v := 1) (by simp (disch := decide) only [ext_append_lo, ext_append_hi]; rfl))
    (known_field (lo := 25) (n := 1) (v := 1) (by simp (disch := decide) only [ext_append_lo, ext_append_hi]; rfl)))
    (known_field (lo := 4) (n := 1) (v := 0) (by simp (disch := decide) only [ext_append_lo, ext_append_hi]; rfl))) _ (by decide)

/-- Entry A12. -/
theorem tag_block (c : Cond) (pu : BitVec 2) (s w l : BitVec 1) (rn : Reg) (list : BitVec 16) :
    armTag (c.code ++ (0b100#3 ++ pu ++ s ++ w ++ l ++ Reg.bits rn ++ list : BitVec 28)) = .aBDT :=
  armTag_of (known_field (lo := 25) (n := 3) (v := 4) (by simp (disch := decide) only [ext_append_lo, ext_append_hi]; rfl)) _ (by decide)

/-- Entry A13, B. -/
theorem tag_b (c : Cond) (off24 : BitVec 24) :
    armTag (c.code ++ (0b1010#4 ++ off24 : BitVec 28)) = .aB :=
  armTag_of (known_field (lo := 24) (n := 4) (v := 10) (by simp (disch := decide) only [ext_append_lo, ext_append_hi]; rfl)) _ (by decide)

/-- Entry A13, BL. -/
theorem tag_bl (c : Cond) (off24 : BitVec 24) :
    armTag (c.code ++ (0b1011#4 ++ off24 : BitVec 28)) = .aB :=
  armTag_of (known_field (lo := 24) (n := 4) (v := 11) (by simp (disch := decide) only [ext_append_lo, ext_append_hi]; rfl)) _ (by decide)

/-- Entry A14. -/
theorem tag_cdt (c : Cond) (punw : BitVec 4) (l : BitVec 1) (rn crd cp : BitVec 4) (off8 : BitVec 8) :
    armTag (c.code ++ (0b110#3 ++ punw ++ l ++ rn ++ crd ++ cp ++ off8 : BitVec 28)) = .aCDT :=
  armTag_of (known_field (lo := 25) (n := 3) (v := 6) (by simp (disch := decide) only [ext_append_lo, ext_append_hi]; rfl)) _ (by decide)

/-- Entry A15. -/
theorem tag_cdo (c : Cond) (opc1 crn crd cp : BitVec 4) (opc2 : BitVec 3) (crm : BitVec 4) :
    armTag (c.code ++ (0b1110#4 ++ opc1 ++ crn ++ crd ++ cp ++ opc2 ++ 0#1 ++ crm : BitVec 28)) = .aCDO :=
  armTag_of (known_or (known_field (lo := 24) (n := 4) (v := 14) (by simp (disch := decide) only [ext_append_lo, ext_append_hi]; rfl))
    (known_field (lo := 4) (n := 1) (v := 0) (by simp (disch := decide) only [ext_append_lo, ext_append_hi]; rfl))) _ (by decide)

/-- Entry A16. -/
theorem tag_crt (c : Cond) (opc1 : BitVec 3) (l : BitVec 1) (crn rd cp : BitVec 4) (opc2 : BitVec 3) (crm : BitVec 4) :
    armTag (c.code ++ (0b1110#4 ++ opc1 ++ l ++ crn ++ rd ++ cp ++ opc2 ++ 1#1 ++ crm : BitVec 28)) = .aCRT :=
  armTag_of (known_or (known_field (lo := 24) (n := 4) (v := 14) (by simp (disch := decide) only [ext_append_lo, ext_append_hi]; rfl))
    (known_field (lo := 4) (n := 1) (v := 1) (by simp (disch := decide) only [ext_append_lo, ext_append_hi]; rfl))) _ (by decide)

/-- Entry A17. -/
theorem tag_swi (c : Cond) (comment : BitVec 24) :
    armTag (c.code ++ (0b1111#4 ++ comment : BitVec 28)) = .aSWI :=
  armTag_of (known_field (lo := 24) (n := 4) (v := 15) (by simp (disch := decide) only [ext_append_lo, ext_append_hi]; rfl)) _ (by decide)

/-- Entry T1. -/
theorem tag_f17 (x : BitVec 8) :
    thumbTag (0b11011111#8 ++ x : Half) = .tF17 :=
  thumbTag_of (known_field (lo := 8) (n := 8) (v := 223) (by simp (disch := decide) only [ext_append_lo, ext_append_hi]; rfl)) _ (by decide)

/-- Entry T2. -/
theorem tag_undCond (x : BitVec 8) :
    thumbTag (0b11011110#8 ++ x : Half) = .tUND :=
  thumbTag_of (known_field (lo := 8) (n := 8) (v := 222) (by simp (disch := decide) only [ext_append_lo, ext_append_hi]; rfl)) _ (by decide)

/-- Entry T4. -/
theorem tag_tbkpt (x : BitVec 8) :
    thumbTag (0b10111110#8 ++ x : Half) = .tBKPT :=
  thumbTag_of (known_field (lo := 8) (n := 8) (v := 190) (by simp (disch := decide) only [ext_append_lo, ext_append_hi]; rfl)) _ (by decide)

/-- Entry T5, S = 0. -/
theorem tag_f13_0 (x : BitVec 7) :
    thumbTag (0b101100000#9 ++ x : Half) = .tF13 :=
  thumbTag_of (known_field (lo := 7) (n := 9) (v := 352) (by simp (disch := decide) only [ext_append_lo, ext_append_hi]; rfl)) _ (by decide)

/-- Entry T5, S = 1. -/
theorem tag_f13_1 (x : BitVec 7) :
    thumbTag (0b101100001#9 ++ x : Half) = .tF13 :=
  thumbTag_of (known_field (lo := 7) (n := 9) (v := 353) (by simp (disch := decide) only [ext_append_lo, ext_append_hi]; rfl)) _ (by decide)

/-- Entry T6, PUSH. -/
theorem tag_push (r : BitVec 1) (x : BitVec 8) :
    thumbTag (0b1011010#7 ++ r ++ x : Half) = .tF14 :=
  thumbTag_of (known_field (lo := 9) (n := 7) (v := 90) (by simp (disch := decide) only [ext_append_lo, ext_append_hi]; rfl)) _ (by decide)

/-- Entry T6, POP. -/
theorem tag_pop (r : BitVec 1) (x : BitVec 8) :
    thumbTag (0b1011110#7 ++ r ++ x : Half) = .tF14 :=
  thumbTag_of (known_field (lo := 9) (n := 7) (v := 94) (by simp (disch := decide) only [ext_append_lo, ext_append_hi]; rfl)) _ (by decide)

/-- Entry T7, operation 0. -/
theorem tag_f2_0 (a b d : BitVec 3) :
    thumbTag (12#7 ++ a ++ b ++ d : Half) = .tF2 :=
  thumbTag_of (known_field (lo := 9) (n := 7) (v := 12) (by simp (disch := decide) only [ext_append_lo, ext_append_hi]; rfl)) _ (by decide)

/-- Entry T7, operation 1. -/
theorem tag_f2_1 (a b d : BitVec 3) :
    thumbTag (13#7 ++ a ++ b ++ d : Half) = .tF2 :=
  thumbTag_of (known_field (lo := 9) (n := 7) (v := 13) (by simp (disch := decide) only [ext_append_lo, ext_append_hi]; rfl)) _ (by decide)

/-- Entry T7, operation 2. -/
theorem tag_f2_2 (a b d : BitVec 3) :
    thumbTag (14#7 ++ a ++ b ++ d : Half) = .tF2 :=
  thumbTag_of (known_field (lo := 9) (n := 7) (v := 14) (by simp (disch := decide) only [ext_append_lo, ext_append_hi]; rfl)) _ (by decide)

/-- Entry T7, operation 3. -/
theorem tag_f2_3 (a b d : BitVec 3) :
    thumbTag (15#7 ++ a ++ b ++ d : Half) = .tF2 :=
  thumbTag_of (known_field (lo := 9) (n := 7) (v := 15) (by simp (disch := decide) only [ext_append_lo, ext_append_hi]; rfl)) _ (by decide)

/-- Entry T8, five high bits 0. -/
theorem tag_imm5_0 (i : BitVec 5) (b d : BitVec 3) :
    thumbTag (0#5 ++ i ++ b ++ d : Half) = .tF1 :=
  thumbTag_of (known_field (lo := 11) (n := 5) (v := 0) (by simp (disch := decide) only [ext_append_lo, ext_append_hi]; rfl)) _ (by decide)

/-- Entry T8, five high bits 1. -/
theorem tag_imm5_1 (i : BitVec 5) (b d : BitVec 3) :
    thumbTag (1#5 ++ i ++ b ++ d : Half) = .tF1 :=
  thumbTag_of (known_field (lo := 11) (n := 5) (v := 1) (by simp (disch := decide) only [ext_append_lo, ext_append_hi]; rfl)) _ (by decide)

/-- Entry T8, five high bits 2. -/
theorem tag_imm5_2 (i : BitVec 5) (b d : BitVec 3) :
    thumbTag (2#5 ++ i ++ b ++ d : Half) = .tF1 :=
  thumbTag_of (known_field (lo := 11) (n := 5) (v := 2) (by simp (disch := decide) only [ext_append_lo, ext_append_hi]; rfl)) _ (by decide)

/-- Entry T16, five high bits 12. -/
theorem tag_imm5_12 (i : BitVec 5) (b d : BitVec 3) :
    thumbTag (12#5 ++ i ++ b ++ d : Half) = .tF9 :=
  thumbTag_of (known_field (lo := 11) (n := 5) (v := 12) (by simp (disch := decide) only [ext_append_lo, ext_append_hi]; rfl)) _ (by decide)

/-- Entry T16, five high bits 13. -/
theorem tag_imm5_13 (i : BitVec 5) (b d : BitVec 3) :
    thumbTag (13#5 ++ i ++ b ++ d : Half) = .tF9 :=
  thumbTag_of (known_field (lo := 11) (n := 5) (v := 13) (by simp (disch := decide) only [ext_append_lo, ext_append_hi]; rfl)) _ (by decide)

/-- Entry T16, five high bits 14. -/
theorem tag_imm5_14 (i : BitVec 5) (b d : BitVec 3) :
    thumbTag (14#5 ++ i ++ b ++ d : Half) = .tF9 :=
  thumbTag_of (known_field (lo := 11) (n := 5) (v := 14) (by simp (disch := decide) only [ext_append_lo, ext_append_hi]; rfl)) _ (by decide)

/-- Entry T16, five high bits 15. -/
theorem tag_imm5_15 (i : BitVec 5) (b d : BitVec 3) :
    thumbTag (15#5 ++ i ++ b ++ d : Half) = .tF9 :=
  thumbTag_of (known_field (lo := 11) (n := 5) (v := 15) (by simp (disch := decide) only [ext_append_lo, ext_append_hi]; rfl)) _ (by decide)

/-- Entry T17, five high bits 16. -/
theorem tag_imm5_16 (i : BitVec 5) (b d : BitVec 3) :
    thumbTag (16#5 ++ i ++ b ++ d : Half) = .tF10 :=
  thumbTag_of (known_field (lo := 11) (n := 5) (v := 16) (by simp (disch := decide) only [ext_append_lo, ext_append_hi]; rfl)) _ (by decide)

/-- Entry T17, five high bits 17. -/
theorem tag_imm5_17 (i : BitVec 5) (b d : BitVec 3) :
    thumbTag (17#5 ++ i ++ b ++ d : Half) = .tF10 :=
  thumbTag_of (known_field (lo := 11) (n := 5) (v := 17) (by simp (disch := decide) only [ext_append_lo, ext_append_hi]; rfl)) _ (by decide)

/-- Entry T9, five high bits 4. -/
theorem tag_imm8_4 (d : BitVec 3) (x : BitVec 8) :
    thumbTag (4#5 ++ d ++ x : Half) = .tF3 :=
  thumbTag_of (known_field (lo := 11) (n := 5) (v := 4) (by simp (disch := decide) only [ext_append_lo, ext_append_hi]; rfl)) _ (by decide)

/-- Entry T9, five high bits 5. -/
theorem tag_imm8_5 (d : BitVec 3) (x : BitVec 8) :
    thumbTag (5#5 ++ d ++ x : Half) = .tF3 :=
  thumbTag_of (known_field (lo := 11) (n := 5) (v := 5) (by simp (disch := decide) only [ext_append_lo, ext_append_hi]; rfl)) _ (by decide)

/-- Entry T9, five high bits 6. -/
theorem tag_imm8_6 (d : BitVec 3) (x : BitVec 8) :
    thumbTag (6#5 ++ d ++ x : Half) = .tF3 :=
  thumbTag_of (known_field (lo := 11) (n := 5) (v := 6) (by simp (disch := decide) only [ext_append_lo, ext_append_hi]; rfl)) _ (by decide)

/-- Entry T9, five high bits 7. -/
theorem tag_imm8_7 (d : BitVec 3) (x : BitVec 8) :
    thumbTag (7#5 ++ d ++ x : Half) = .tF3 :=
  thumbTag_of (known_field (lo := 11) (n := 5) (v := 7) (by simp (disch := decide) only [ext_append_lo, ext_append_hi]; rfl)) _ (by decide)

/-- Entry T13, five high bits 9. -/
theorem tag_imm8_9 (d : BitVec 3) (x : BitVec 8) :
    thumbTag (9#5 ++ d ++ x : Half) = .tF6 :=
  thumbTag_of (known_field (lo := 11) (n := 5) (v := 9) (by simp (disch := decide) only [ext_append_lo, ext_append_hi]; rfl)) _ (by decide)

/-- Entry T18, five high bits 18. -/
theorem tag_imm8_18 (d : BitVec 3) (x : BitVec 8) :
    thumbTag (18#5 ++ d ++ x : Half) = .tF11 :=
  thumbTag_of (known_field (lo := 11) (n := 5) (v := 18) (by simp (disch := decide) only [ext_append_lo, ext_append_hi]; rfl)) _ (by decide)

/-- Entry T18, five high bits 19. -/
theorem tag_imm8_19 (d : BitVec 3) (x : BitVec 8) :
    thumbTag (19#5 ++ d ++ x : Half) = .tF11 :=
  thumbTag_of (known_field (lo := 11) (n := 5) (v := 19) (by simp (disch := decide) only [ext_append_lo, ext_append_hi]; rfl)) _ (by decide)

/-- Entry T19, five high bits 20. -/
theorem tag_imm8_20 (d : BitVec 3) (x : BitVec 8) :
    thumbTag (20#5 ++ d ++ x : Half) = .tF12 :=
  thumbTag_of (known_field (lo := 11) (n := 5) (v := 20) (by simp (disch := decide) only [ext_append_lo, ext_append_hi]; rfl)) _ (by decide)

/-- Entry T19, five high bits 21. -/
theorem tag_imm8_21 (d : BitVec 3) (x : BitVec 8) :
    thumbTag (21#5 ++ d ++ x : Half) = .tF12 :=
  thumbTag_of (known_field (lo := 11) (n := 5) (v := 21) (by simp (disch := decide) only [ext_append_lo, ext_append_hi]; rfl)) _ (by decide)

/-- Entry T20, five high bits 24. -/
theorem tag_imm8_24 (d : BitVec 3) (x : BitVec 8) :
    thumbTag (24#5 ++ d ++ x : Half) = .tF15 :=
  thumbTag_of (known_field (lo := 11) (n := 5) (v := 24) (by simp (disch := decide) only [ext_append_lo, ext_append_hi]; rfl)) _ (by decide)

/-- Entry T20, five high bits 25. -/
theorem tag_imm8_25 (d : BitVec 3) (x : BitVec 8) :
    thumbTag (25#5 ++ d ++ x : Half) = .tF15 :=
  thumbTag_of (known_field (lo := 11) (n := 5) (v := 25) (by simp (disch := decide) only [ext_append_lo, ext_append_hi]; rfl)) _ (by decide)

/-- Entry T10. -/
theorem tag_f4 (op : BitVec 4) (s d : BitVec 3) :
    thumbTag (0b010000#6 ++ op ++ s ++ d : Half) = .tF4 :=
  thumbTag_of (known_field (lo := 10) (n := 6) (v := 16) (by simp (disch := decide) only [ext_append_lo, ext_append_hi]; rfl)) _ (by decide)

/-- Entry T11. -/
theorem tag_blxReg (x : BitVec 7) :
    thumbTag (0b010001111#9 ++ x : Half) = .tUBLX :=
  thumbTag_of (known_field (lo := 7) (n := 9) (v := 143) (by simp (disch := decide) only [ext_append_lo, ext_append_hi]; rfl)) _ (by decide)

/-- Entry T12, operation 0. -/
theorem tag_f5_0 (h : BitVec 1) (s : BitVec 4) (d : BitVec 3) :
    thumbTag (0b010001#6 ++ 0#2 ++ h ++ s ++ d : Half) = .tF5 :=
  thumbTag_of (known_or (known_field (lo := 10) (n := 6) (v := 17) (by simp (disch := decide) only [ext_append_lo, ext_append_hi]; rfl))
    (known_field (lo := 8) (n := 2) (v := 0) (by simp (disch := decide) only [ext_append_lo, ext_append_hi]; rfl))) _ (by decide)

/-- Entry T12, operation 1. -/
theorem tag_f5_1 (h : BitVec 1) (s : BitVec 4) (d : BitVec 3) :
    thumbTag (0b010001#6 ++ 1#2 ++ h ++ s ++ d : Half) = .tF5 :=
  thumbTag_of (known_or (known_field (lo := 10) (n := 6) (v := 17) (by simp (disch := decide) only [ext_append_lo, ext_append_hi]; rfl))
    (known_field (lo := 8) (n := 2) (v := 1) (by simp (disch := decide) only [ext_append_lo, ext_append_hi]; rfl))) _ (by decide)

/-- Entry T12, operation 2. -/
theorem tag_f5_2 (h : BitVec 1) (s : BitVec 4) (d : BitVec 3) :
    thumbTag (0b010001#6 ++ 2#2 ++ h ++ s ++ d : Half) = .tF5 :=
  thumbTag_of (known_or (known_field (lo := 10) (n := 6) (v := 17) (by simp (disch := decide) only [ext_append_lo, ext_append_hi]; rfl))
    (known_field (lo := 8) (n := 2) (v := 2) (by simp (disch := decide) only [ext_append_lo, ext_append_hi]; rfl))) _ (by decide)

/-- Entry T12, BX. -/
theorem tag_tbx (s : BitVec 4) :
    thumbTag (0b010001110#9 ++ s ++ 0#3 : Half) = .tF5 :=
  thumbTag_of (known_field (lo := 7) (n := 9) (v := 142) (by simp (disch := decide) only [ext_append_lo, ext_append_hi]; rfl)) _ (by decide)

/-- Entry T15. -/
theorem tag_f7 (op : BitVec 2) (o b d : BitVec 3) :
    thumbTag (0b0101#4 ++ op ++ 0#1 ++ o ++ b ++ d : Half) = .tF7 :=
  thumbTag_of (known_or (known_field (lo := 12) (n := 4) (v := 5) (by simp (disch := decide) only [ext_append_lo, ext_append_hi]; rfl))
    (known_field (lo := 9) (n := 1) (v := 0) (by simp (disch := decide) only [ext_append_lo, ext_append_hi]; rfl))) _ (by decide)

/-- Entry T14. -/
theorem tag_f8 (op : BitVec 2) (o b d : BitVec 3) :
    thumbTag (0b0101#4 ++ op ++ 1#1 ++ o ++ b ++ d : Half) = .tF8 :=
  thumbTag_of (known_or (known_field (lo := 12) (n := 4) (v := 5) (by simp (disch := decide) only [ext_append_lo, ext_append_hi]; rfl))
    (known_field (lo := 9) (n := 1) (v := 1) (by simp (disch := decide) only [ext_append_lo, ext_append_hi]; rfl))) _ (by decide)

/-- Entry T21. -/
theorem tag_f18 (x : BitVec 11) :
    thumbTag (0b11100#5 ++ x : Half) = .tF18 :=
  thumbTag_of (known_field (lo := 11) (n := 5) (v := 28) (by simp (disch := decide) only [ext_append_lo, ext_append_hi]; rfl)) _ (by decide)

/-- Entry T22. -/
theorem tag_blxSuffix (x : BitVec 11) :
    thumbTag (0b11101#5 ++ x : Half) = .tUBLX :=
  thumbTag_of (known_field (lo := 11) (n := 5) (v := 29) (by simp (disch := decide) only [ext_append_lo, ext_append_hi]; rfl)) _ (by decide)

/-- Entry T23, first half. -/
theorem tag_blFirst (x : BitVec 11) :
    thumbTag (0b11110#5 ++ x : Half) = .tF19 :=
  thumbTag_of (known_field (lo := 11) (n := 5) (v := 30) (by simp (disch := decide) only [ext_append_lo, ext_append_hi]; rfl)) _ (by decide)

/-- Entry T23, second half. -/
theorem tag_blSecond (x : BitVec 11) :
    thumbTag (0b11111#5 ++ x : Half) = .tF19 :=
  thumbTag_of (known_field (lo := 11) (n := 5) (v := 31) (by simp (disch := decide) only [ext_append_lo, ext_append_hi]; rfl)) _ (by decide)

/-- A single transfer in each form of its offset. -/
theorem tag_single (c : Cond) (p u b w l : BitVec 1) (rn rd : Reg) (off : WordOffset) :
    armTag (c.code ++ (0b01#2 ++ off.iBit ++ p ++ u ++ b ++ w ++ l ++ Reg.bits rn ++ Reg.bits rd ++ off.bits : BitVec 28)) =
      .aSDT := by
  cases off with
  | imm off12 => exact tag_single_imm c p u b w l rn rd off12
  | reg rm kind imm5 => exact tag_single_reg c p u b w l rn rd imm5 kind.code rm

/-- The immediate offset of a single transfer. -/
theorem decodeWordOffset_imm {w : Word} (h : w.getLsbD 25 = false) :
    decodeWordOffset w = .imm (w.extractLsb' 0 12) := by
  rw [decodeWordOffset, if_neg (by rw [h]; decide)]

/-- The register offset of a single transfer. -/
theorem decodeWordOffset_reg {w : Word} (h : w.getLsbD 25 = true) :
    decodeWordOffset w = .reg (regAt w 0) (ShiftKind.ofCode (w.extractLsb' 5 2)) (w.extractLsb' 7 5) := by
  rw [decodeWordOffset, if_pos h]

/-- The offset of an encoded single transfer. -/
theorem offset_single (c : Cond) (p u b w l : BitVec 1) (rn rd : Reg) (off : WordOffset) :
    decodeWordOffset (c.code ++ (0b01#2 ++ off.iBit ++ p ++ u ++ b ++ w ++ l ++ Reg.bits rn ++ Reg.bits rd ++ off.bits : BitVec 28)) =
      off := by
  cases off with
  | imm off12 =>
    simp only [WordOffset.iBit, WordOffset.bits]
    rw [decodeWordOffset_imm (by simp (disch := decide) only [bit_append_lo, bit_append_hi]; rfl)]
    simp (disch := decide) only [ext_append_lo, ext_append_hi]
    simp
  | reg rm kind imm5 =>
    simp only [WordOffset.iBit, WordOffset.bits]
    rw [decodeWordOffset_reg (by simp (disch := decide) only [bit_append_lo, bit_append_hi]; rfl)]
    simp (disch := decide) only [regAt, ext_append_lo, ext_append_hi]
    simp [kind_code, reg_bits]

/-- The immediate offset of a halfword transfer. -/
theorem decodeHalfOffset_imm {w : Word} (h : w.getLsbD 22 = true) :
    decodeHalfOffset w = .imm (w.extractLsb' 8 4 ++ w.extractLsb' 0 4) := by
  rw [decodeHalfOffset, if_pos h]

/-- The register offset of a halfword transfer. -/
theorem decodeHalfOffset_reg {w : Word} (h : w.getLsbD 22 = false) : decodeHalfOffset w = .reg (regAt w 0) := by
  rw [decodeHalfOffset, if_neg (by rw [h]; decide)]

/-- The offset of an encoded halfword transfer. -/
theorem offset_half (c : Cond) (p u w l : BitVec 1) (sh : BitVec 2) (rn rd : Reg) (off : HalfOffset) :
    decodeHalfOffset (c.code ++ (0b000#3 ++ p ++ u ++ off.iBit ++ w ++ l ++ Reg.bits rn ++ Reg.bits rd ++ off.hiBits ++
      1#1 ++ sh ++ 1#1 ++ off.loBits : BitVec 28)) = off := by
  cases off with
  | imm off8 =>
    simp only [HalfOffset.iBit, HalfOffset.hiBits, HalfOffset.loBits]
    rw [decodeHalfOffset_imm (by simp (disch := decide) only [bit_append_lo, bit_append_hi]; rfl)]
    simp (disch := decide) only [ext_append_lo, ext_append_hi]
    simp [join8]
  | reg rm =>
    simp only [HalfOffset.iBit, HalfOffset.hiBits, HalfOffset.loBits]
    rw [decodeHalfOffset_reg (by simp (disch := decide) only [bit_append_lo, bit_append_hi]; rfl)]
    simp (disch := decide) only [regAt, ext_append_lo, ext_append_hi]
    simp [reg_bits]

/-- Entry T3: the condition codes 0 to 13. -/
theorem tag_bcond (x : BitVec 8) (c : Cond) (h : (c != .al && c != .nv) = true) :
    thumbTag (0b1101#4 ++ c.code ++ x : Half) = .tF16 := by
  have known := fun (k : BitVec 4) (hk : c.code.extractLsb' 0 4 = k) =>
    known_or (known_field (w := (0b1101#4 ++ c.code ++ x : Half)) (lo := 12) (n := 4) (v := 13)
      (by simp (disch := decide) only [ext_append_lo, ext_append_hi]; rfl))
    (known_field (lo := 8) (n := 4) (v := k) (by simp (disch := decide) only [ext_append_lo, ext_append_hi]; exact hk))
  cases c <;> first | exact absurd h (by decide) | exact thumbTag_of (known _ rfl) _ (by decide)

/-- Entry A6, which the entries A3, A4 and A5 leave. -/
theorem tag_undMulSwap (c : Cond) (hi : BitVec 17) (lo : BitVec 4) (h : undMulSwapAllowed hi = true) :
    armTag (c.code ++ (0b000#3 ++ hi ++ 0b1001#4 ++ lo : BitVec 28)) = .aUND := by
  have known := fun (p n : Nat) (v : BitVec n) (hp : p + n ≤ 17) (hv : hi.extractLsb' p n = v) =>
    known_or (known_or (known_field (w := (c.code ++ (0b000#3 ++ hi ++ 0b1001#4 ++ lo : BitVec 28) : Word)) (lo := 25) (n := 3)
        (v := 0) (by simp (disch := decide) only [ext_append_lo, ext_append_hi]; rfl))
      (known_field (lo := 4) (n := 4) (v := 9) (by simp (disch := decide) only [ext_append_lo, ext_append_hi]; rfl)))
    (known_field (lo := 8 + p) (n := n) (v := v)
      (by
        rw [ext_append_lo (by omega), ext_append_hi (by omega), ext_append_hi (by omega), ext_append_lo (by omega),
          show 8 + p - 4 - 4 = p by omega]
        exact hv))
  have three : ∀ x : BitVec 3, x = 0 ∨ x = 1 ∨ x = 2 ∨ x = 3 ∨ x = 4 ∨ x = 5 ∨ x = 6 ∨ x = 7 := by decide
  have two : ∀ x : BitVec 2, x ≠ 0 → x = 1 ∨ x = 2 ∨ x = 3 := by decide
  have four : ∀ x : BitVec 4, x ≠ 0 → x = 1 ∨ x = 2 ∨ x = 3 ∨ x = 4 ∨ x = 5 ∨ x = 6 ∨ x = 7 ∨ x = 8 ∨ x = 9 ∨ x = 10 ∨
      x = 11 ∨ x = 12 ∨ x = 13 ∨ x = 14 ∨ x = 15 := by decide
  have high : hi.extractLsb' 15 2 = (hi.extractLsb' 14 3).extractLsb' 1 2 := by
    apply BitVec.eq_of_getLsbD_eq
    intro i hi
    simp only [BitVec.getLsbD_extractLsb']
    grind
  simp only [undMulSwapAllowed, Bool.and_eq_true, bne_iff_ne, Bool.not_eq_true', ne_eq, high] at h
  obtain ⟨⟨h1, h2⟩, h3⟩ := h
  rcases three (hi.extractLsb' 14 3) with e | e | e | e | e | e | e | e <;> rw [e] at h1 h2 h3
  · exact absurd rfl h1
  · exact armTag_of (known 14 3 _ (by decide) e) _ (by decide)
  · exact absurd rfl h2
  · exact absurd rfl h2
  · by_cases hs : hi.extractLsb' 12 2 = 0
    · have hz : hi.extractLsb' 0 4 ≠ 0 := by
        intro hz
        rw [hs, hz] at h3
        exact absurd h3 (by decide)
      rcases four _ hz with f | f | f | f | f | f | f | f | f | f | f | f | f | f | f <;>
        exact armTag_of (known_or (known 14 3 _ (by decide) e) (known 0 4 _ (by decide) f)) _ (by decide)
    · rcases two _ hs with f | f | f <;>
        exact armTag_of (known_or (known 14 3 _ (by decide) e) (known 12 2 _ (by decide) f)) _ (by decide)
  · by_cases hs : hi.extractLsb' 12 2 = 0
    · have hz : hi.extractLsb' 0 4 ≠ 0 := by
        intro hz
        rw [hs, hz] at h3
        exact absurd h3 (by decide)
      rcases four _ hz with f | f | f | f | f | f | f | f | f | f | f | f | f | f | f <;>
        exact armTag_of (known_or (known 14 3 _ (by decide) e) (known 0 4 _ (by decide) f)) _ (by decide)
    · rcases two _ hs with f | f | f <;>
        exact armTag_of (known_or (known 14 3 _ (by decide) e) (known 12 2 _ (by decide) f)) _ (by decide)
  · exact armTag_of (known 14 3 _ (by decide) e) _ (by decide)
  · exact armTag_of (known 14 3 _ (by decide) e) _ (by decide)

/-- The halfwords 1011 that no entry takes. -/
theorem tag_und1011 (low : BitVec 12) (h : und1011Allowed low = true) :
    thumbTag (0b1011#4 ++ low : Half) = .tUND := by
  have known := fun (v : BitVec 4) (hv : low.extractLsb' 8 4 = v) =>
    known_or (known_field (w := (0b1011#4 ++ low : Half)) (lo := 12) (n := 4) (v := 11)
        (by simp (disch := decide) only [ext_append_lo, ext_append_hi]; rfl))
      (known_field (lo := 8) (n := 4) (v := v) (by rw [ext_append_lo (by decide)]; exact hv))
  have four : ∀ x : BitVec 4, (x != 0b1110#4 && x != 0b0000#4 && x.extractLsb' 1 2 != 0b10#2) = true →
      x = 1 ∨ x = 2 ∨ x = 3 ∨ x = 6 ∨ x = 7 ∨ x = 8 ∨ x = 9 ∨ x = 10 ∨ x = 11 ∨ x = 15 := by decide
  have mid : low.extractLsb' 9 2 = (low.extractLsb' 8 4).extractLsb' 1 2 := by
    apply BitVec.eq_of_getLsbD_eq
    intro i hi
    simp only [BitVec.getLsbD_extractLsb']
    grind
  rw [und1011Allowed, mid] at h
  rcases four _ h with f | f | f | f | f | f | f | f | f | f <;>
    exact thumbTag_none (known _ f) (by decide)

end Sys2Proof.Laws
end

