-- ==== Sys2Proof/Laws/Ops.lean ====
section
/-! SUPPORT. What the shared operations of the instructions can do: status words, register writes, writes of `pc`,
exceptions, loads and stores. -/

set_option Elab.async false

namespace Sys2Proof.Machine

/-! ### Status words -/

theorem extract_low_append {j k n : Nat} (x : BitVec j) (y : BitVec k) (h : n ≤ k) :
    (x ++ y).extractLsb' 0 n = y.extractLsb' 0 n := by
  apply BitVec.eq_of_getLsbD_eq
  intro i hi
  simp only [BitVec.getLsbD_extractLsb', BitVec.getLsbD_append]
  rw [if_pos (by omega)]

theorem bit_low_append {j k i : Nat} (x : BitVec j) (y : BitVec k) (h : i < k) : (x ++ y).getLsbD i = y.getLsbD i := by
  rw [BitVec.getLsbD_append, if_pos h]

theorem putFlags_mode (w : Word) (n z c v : Bool) : (putFlags w n z c v).extractLsb' 0 5 = w.extractLsb' 0 5 := by
  rw [putFlags, extract_low_append _ _ (by decide)]
  apply BitVec.eq_of_getLsbD_eq
  intro i hi
  simp only [BitVec.getLsbD_extractLsb']
  grind

theorem putFlags_low (w : Word) (n z c v : Bool) {i : Nat} (h : i < 28) : (putFlags w n z c v).getLsbD i = w.getLsbD i := by
  rw [putFlags, bit_low_append _ _ h, BitVec.getLsbD_extractLsb']
  simp [h]

theorem putThumb_mode (w : Word) (t : Bool) : (putThumb w t).extractLsb' 0 5 = w.extractLsb' 0 5 := by
  rw [putThumb, extract_low_append _ _ (by decide)]
  simp

theorem putThumb_bit (w : Word) (t : Bool) : (putThumb w t).getLsbD 5 = t := by
  rw [putThumb, BitVec.getLsbD_append, if_neg (by decide), bit_low_append _ _ (by decide)]
  cases t <;> rfl

theorem putMode_mode (w : Word) (m : BitVec 5) : (putMode w m).extractLsb' 0 5 = m := by
  rw [putMode, extract_low_append _ _ (by decide), BitVec.extractLsb'_eq_self]

theorem putMode_high (w : Word) (m : BitVec 5) {i : Nat} (h : 5 ≤ i) : (putMode w m).getLsbD i = w.getLsbD i := by
  rw [putMode, BitVec.getLsbD_append, if_neg (by omega), BitVec.getLsbD_extractLsb', show 5 + (i - 5) = i by omega]
  by_cases h32 : i - 5 < 27
  · simp [h32]
  · simp [h32, BitVec.getLsbD_of_ge w i (by omega)]

theorem handlerStatus_mode (w : Word) (f : Bool) (m : Mode) : (handlerStatus w f m).extractLsb' 0 5 = m.code := by
  rw [handlerStatus, extract_low_append _ _ (by decide), BitVec.extractLsb'_eq_self]

theorem handlerStatus_thumb (w : Word) (f : Bool) (m : Mode) : (handlerStatus w f m).getLsbD 5 = false := by
  rw [handlerStatus, BitVec.getLsbD_append, if_neg (by decide), bit_low_append _ _ (by decide)]
  rfl

theorem validMode_code (m : Mode) : validMode m.code = true := by cases m <;> rfl

/-! ### The state before the end of an instruction -/

/-- What an instruction does before it writes `pc`. -/
structure Before (s t : State) : Prop where
  ran : Ran s t
  pc : t.pc = s.pc
  thumb : t.thumb = s.thumb

theorem Before.refl (s : State) : Before s s := ⟨.refl s, rfl, rfl⟩

theorem Before.trans {s t u : State} (h : Before s t) (k : Before t u) : Before s u :=
  ⟨h.ran.trans k.ran, k.pc.trans h.pc, k.thumb.trans h.thumb⟩

theorem OnBus.before {s t : State} (h : OnBus s t) : Before s t := by
  refine ⟨h.ran, ?_, ?_⟩ <;> rw [h.same]
  rfl

theorem Looked.before {s t : State} (h : Looked s t) : Before s t := h.onBus.before

theorem before_withGpr (s : State) (i : Fin 30) (v : Word) : Before s (s.withGpr i v) := ⟨ran_withGpr .., rfl, rfl⟩
theorem before_charge (s : State) (n : Nat) : Before s (s.charge n) := ⟨ran_charge .., rfl, rfl⟩
theorem before_logIf (s : State) (b : Bool) (e : DiagEvent) : Before s (s.logIf b e) := (Looked.logIf ..).before
theorem before_log (s : State) (e : DiagEvent) : Before s (s.log e) := (Looked.log ..).before
theorem before_withSpsr (s : State) (m : Fin 5) (v : Word) : Before s (s.withSpsr m v) := ⟨ran_withSpsr .., rfl, rfl⟩
theorem before_withSpsrValid (s : State) (m : Fin 5) (b : Bool) : Before s (s.withSpsrValid m b) :=
  ⟨ran_withSpsrValid .., rfl, rfl⟩

theorem before_setBankReg (s : State) (n : Reg) (m : Mode) (v : Word) : Before s (s.setBankReg n m v) := by
  unfold State.setBankReg
  split
  · exact .refl s
  · exact before_withGpr ..

theorem before_setReg (s : State) (n : Reg) (v : Word) : Before s (s.setReg n v) := before_setBankReg ..

/-- A later write of the status word, judged by the mode the instruction began in. -/
theorem Ran.withCpsr {s t : State} (h : Ran s t) (v : Word)
    (hv : validMode s.modeCode = true → validMode (v.extractLsb' 0 5) = true) : Ran s (t.withCpsr v) where
  params := h.params
  bios := h.bios
  rom := h.rom
  cyclesTotal := h.cyclesTotal
  lastIrq := h.lastIrq
  drawCount := h.drawCount
  ir := h.ir
  diag := h.diag
  memories m := let k := h.memories m; ⟨k.1, k.2, k.3, k.4, k.5, k.6⟩
  registers r := let k := h.registers r; ⟨k.1, k.2, k.3, k.4, k.5, k.6, k.7⟩
  noDma := h.noDma
  mode := hv
  fatal := h.fatal

/-- A status word with other flags (R172). -/
theorem before_putFlags {s t : State} (h : Before s t) (n z c v : Bool) :
    Before s (t.withCpsr (putFlags s.cpsr n z c v)) := by
  refine ⟨h.ran.withCpsr _ fun hv => ?_, h.pc, ?_⟩
  · rw [putFlags_mode]
    exact hv
  · exact putFlags_low _ _ _ _ _ (by decide)

theorem before_logicalFlags {s t : State} (h : Before s t) (r : Word) (sc : Bool) :
    Before s (t.withCpsr (logicalFlags s.cpsr r sc)) := before_putFlags h ..

theorem before_arithmeticFlags {s t : State} (h : Before s t) (a : Sum) :
    Before s (t.withCpsr (arithmeticFlags s.cpsr a)) := before_putFlags h ..

theorem before_nzFlags {s t : State} (h : Before s t) (r : Word) : Before s (t.withCpsr (nzFlags s.cpsr r)) :=
  before_putFlags h ..

theorem before_nzFlags64 {s t : State} (h : Before s t) (p : BitVec 64) : Before s (t.withCpsr (nzFlags64 s.cpsr p)) :=
  before_putFlags h ..

/-- `WriteCPSR` leaves a legal mode (R32). -/
theorem writeCpsr_ran (new mask : Word) (fromMsr : Bool) (s : State) : Ran s (writeCpsr new mask fromMsr s) := by
  unfold writeCpsr
  split
  · exact (Ran.refl s).withCpsr _ fun _ => ‹_›
  · refine (ran_log s _).withCpsr _ fun hv => ?_
    rw [putMode_mode]
    exact hv

theorem mergedCpsr_thumb (new mask : Word) (s : State) : (mergedCpsr new mask true s).getLsbD 5 = s.thumb := putThumb_bit _ _

/-- `WriteCPSR` from an MSR keeps T (R32). -/
theorem writeCpsr_before (new mask : Word) (s : State) : Before s (writeCpsr new mask true s) := by
  refine ⟨writeCpsr_ran .., ?_, ?_⟩ <;> unfold writeCpsr <;> split
  · rfl
  · rfl
  · exact mergedCpsr_thumb ..
  · exact (putMode_high _ _ (by decide)).trans (mergedCpsr_thumb ..)

theorem msrWrite_before (p : StatusWord) (fsxc : BitVec 4) (operand : Word) (s : State) :
    Before s (msrWrite p fsxc operand s) := by
  unfold msrWrite
  split
  · exact writeCpsr_before ..
  · split
    · exact before_log ..
    · exact (before_withSpsr ..).trans (before_withSpsrValid ..)

theorem readStatus_before (p : StatusWord) (s : State) : Before s (readStatus p s).2 := by
  unfold readStatus
  split
  · exact .refl s
  · split
    · exact before_log ..
    · exact before_logIf ..

theorem restoreCpsr_ran (s : State) : Ran s (restoreCpsr s) := by
  unfold restoreCpsr
  split
  · exact ran_log ..
  · exact ((ran_logIf ..).trans (ran_withSpsrValid ..)).trans (writeCpsr_ran ..)

/-! ### The program counter -/

/-- A finished instruction: `pc` is aligned to the state T names. -/
structure Done (s t : State) : Prop where
  ran : Ran s t
  pc : alignPc t.thumb t.pc = t.pc

theorem Before.done {s t u : State} (h : Before s t) (k : Done t u) : Done s u := ⟨h.ran.trans k.ran, k.pc⟩

theorem Ran.done {s t u : State} (h : Ran s t) (k : Done t u) : Done s u := ⟨h.trans k.ran, k.pc⟩

theorem and_idem_mask (p m : Word) : p &&& m &&& m = p &&& m := by
  rw [BitVec.and_assoc, BitVec.and_self]

theorem alignPc_alignPc (b : Bool) (t : Word) : alignPc b (alignPc b t) = alignPc b t := by
  cases b <;> exact and_idem_mask _ _

theorem refill_ran (t : Word) (s : State) : Ran s (refill t s) := (ran_charge ..).trans (ran_withSeqNext ..)

/-- `WritePC` (R175). -/
theorem writePc_done (t : Word) (s : State) : Done s (writePc t s) :=
  ⟨(ran_withPc ..).trans (refill_ran ..), alignPc_alignPc _ _⟩

theorem alignWord_iff (p : Word) : alignWord p = p ↔ p.toNat % 4 = 0 := by
  have h : (alignWord p).toNat = p.toNat / 4 * 4 := by
    have : alignWord p = (p >>> 2) <<< 2 := by
      apply BitVec.eq_of_getLsbD_eq
      intro i hi
      have mask : (0xFFFFFFFC#32).getLsbD i = decide (2 ≤ i) := by
        revert i
        decide
      rw [alignWord, BitVec.getLsbD_and, mask]
      simp only [BitVec.getLsbD_shiftLeft, BitVec.getLsbD_ushiftRight]
      by_cases h2 : i < 2
      · simp [h2]
      · simp [h2, hi, show 2 + (i - 2) = i by omega]
        omega
    rw [this, BitVec.toNat_shiftLeft, BitVec.toNat_ushiftRight, Nat.shiftRight_eq_div_pow, Nat.shiftLeft_eq]
    have := p.isLt
    omega
  constructor
  · intro e
    rw [e] at h
    omega
  · intro e
    apply BitVec.eq_of_toNat_eq
    rw [h]
    omega

theorem alignHalf_iff (p : Word) : alignHalf p = p ↔ p.toNat % 2 = 0 := by
  have h : (alignHalf p).toNat = p.toNat / 2 * 2 := by
    have : alignHalf p = (p >>> 1) <<< 1 := by
      apply BitVec.eq_of_getLsbD_eq
      intro i hi
      have mask : (0xFFFFFFFE#32).getLsbD i = decide (1 ≤ i) := by
        revert i
        decide
      rw [alignHalf, BitVec.getLsbD_and, mask]
      simp only [BitVec.getLsbD_shiftLeft, BitVec.getLsbD_ushiftRight]
      by_cases h2 : i < 1
      · simp [h2]
      · simp [h2, hi, show 1 + (i - 1) = i by omega]
        omega
    rw [this, BitVec.toNat_shiftLeft, BitVec.toNat_ushiftRight, Nat.shiftRight_eq_div_pow, Nat.shiftLeft_eq]
    have := p.isLt
    omega
  constructor
  · intro e
    rw [e] at h
    omega
  · intro e
    apply BitVec.eq_of_toNat_eq
    rw [h]
    omega

/-- The advance of an ARM instruction (R27). -/
theorem advanceArm_done {s t : State} (h : Before s t) (ht : s.thumb = false) (hp : alignPc s.thumb s.pc = s.pc) :
    Done s (advanceArm t) := by
  refine ⟨h.ran.trans (ran_withPc ..), ?_⟩
  have hthumb : (advanceArm t).thumb = false := h.thumb.trans ht
  rw [hthumb]
  rw [ht] at hp
  show alignWord (t.pc + 4) = t.pc + 4
  rw [h.pc, alignWord_iff]
  have := (alignWord_iff s.pc).mp hp
  have := s.pc.isLt
  rw [BitVec.toNat_add, show (4 : Word).toNat = 4 from rfl]
  omega

/-- The advance of a THUMB instruction (R27). -/
theorem advanceThumb_done {s t : State} (h : Before s t) (ht : s.thumb = true) (hp : alignPc s.thumb s.pc = s.pc) :
    Done s (advanceThumb t) := by
  refine ⟨h.ran.trans (ran_withPc ..), ?_⟩
  have hthumb : (advanceThumb t).thumb = true := h.thumb.trans ht
  rw [hthumb]
  rw [ht] at hp
  show alignHalf (t.pc + 2) = t.pc + 2
  rw [h.pc, alignHalf_iff]
  have := (alignHalf_iff s.pc).mp hp
  have := s.pc.isLt
  rw [BitVec.toNat_add, show (2 : Word).toNat = 2 from rfl]
  omega

theorem writeArm_done {s t : State} (rd : Reg) (v : Word) (h : Before s t) (ht : s.thumb = false)
    (hp : alignPc s.thumb s.pc = s.pc) : Done s (writeArm rd v t) := by
  unfold writeArm
  split
  · exact h.done (writePc_done ..)
  · exact advanceArm_done (h.trans (before_setReg ..)) ht hp

theorem writeThumb_done {s t : State} (rd : Reg) (v : Word) (h : Before s t) (ht : s.thumb = true)
    (hp : alignPc s.thumb s.pc = s.pc) : Done s (writeThumb rd v t) := by
  unfold writeThumb
  split
  · exact h.done (writePc_done ..)
  · exact advanceThumb_done (h.trans (before_setReg ..)) ht hp

/-! ### Exceptions -/

/-- Taking an exception other than Reset (R402). -/
theorem enterException_done {kind : ExceptionKind} (hk : kind ≠ .reset) (s : State) : Done s (enterException kind s) := by
  have saved : ∀ r : Word, Ran s (((s.setBankReg linkReg (targetMode kind) r).withSpsr (targetSpsr kind) s.cpsr).withSpsrValid
      (targetSpsr kind) true) := fun r =>
    (((before_setBankReg ..).trans (before_withSpsr ..)).trans (before_withSpsrValid ..)).ran
  have entry : ∀ r : Word, Done s (writePc (vector kind)
      ((((s.setBankReg linkReg (targetMode kind) r).withSpsr (targetSpsr kind) s.cpsr).withSpsrValid
        (targetSpsr kind) true).withCpsr (handlerStatus s.cpsr (setsF kind) (targetMode kind)))) := fun r =>
    ((saved r).withCpsr _ fun _ => by rw [handlerStatus_mode]; exact validMode_code _).done (writePc_done ..)
  cases kind with
  | reset => exact absurd rfl hk
  | _ => exact entry _

/-- An illegal instruction (R267). -/
theorem illegal_done {tag : Tag} (ht : illegalTag tag = true) (s : State) (hp : alignPc s.thumb s.pc = s.pc) :
    Done s (illegal tag s) := by
  unfold illegal
  split
  · exact ⟨ran_withFatal _ _ ‹_› ht, hp⟩
  · exact enterException_done (by decide) s

/-! ### Interrupt requests -/

theorem raised_masked {f : Half} (h : f &&& 0x3FFF#16 = f) {n : Nat} (hn : n < 14) :
    (f ||| 1#16 <<< n) &&& 0x3FFF#16 = f ||| 1#16 <<< n := by
  have bit : ∀ n : Fin 14, (1#16 <<< n.val) &&& 0x3FFF#16 = 1#16 <<< n.val := by decide
  have b := bit ⟨n, hn⟩
  rw [BitVec.and_comm, BitVec.and_or_distrib_left, BitVec.and_comm, h, BitVec.and_comm]
  exact congrArg _ b

theorem raiseInterrupt_onBus (n : Nat) (s : State) : OnBus s (raiseInterrupt n s) := by
  unfold raiseInterrupt
  split
  · exact ⟨rfl, ran_withIflag _ _ fun h => raised_masked h ‹_›⟩
  · exact .refl s

/-! ### Loads and stores -/

theorem loadWord_looked (a : Word) (s : State) : Looked s (loadWord a s).2 := memRead_looked ..
theorem loadHalf_looked (a : Word) (s : State) : Looked s (loadHalf a s).2 := memRead_looked ..
theorem loadByte_looked (a : Word) (s : State) : Looked s (loadByte a s).2 := memRead_looked ..
theorem loadSignedByte_looked (a : Word) (s : State) : Looked s (loadSignedByte a s).2 := memRead_looked ..

theorem loadSignedHalf_looked (a : Word) (s : State) : Looked s (loadSignedHalf a s).2 := by
  unfold loadSignedHalf
  split <;> exact memRead_looked ..

theorem storeWord_onBus (a v : Word) (s : State) : OnBus s (storeWord a v s) := memWrite_onBus ..
theorem storeHalf_onBus (a v : Word) (s : State) : OnBus s (storeHalf a v s) := memWrite_onBus ..
theorem storeByte_onBus (a v : Word) (s : State) : OnBus s (storeByte a v s) := memWrite_onBus ..

end Sys2Proof.Machine
end

