-- ==== Sys2Proof/Laws/Instr.lean ====
section
/-! SUPPORT. Every instruction keeps what `Ran` says and ends with an aligned `pc`: one lemma per shape of effect, then
one case analysis over the instructions. -/

set_option Elab.async false
set_option linter.unusedVariables false
set_option linter.unusedSectionVars false

namespace Sys2Proof.Machine

/-- The encoding an instruction belongs to. -/
def codeIsThumb : Code → Bool
  | .arm _ => false
  | .thumb _ => true

/-! ### The gate -/

theorem skip_done {s : State} (c : Cond) (ht : s.thumb = false) (hp : alignPc s.thumb s.pc = s.pc) : Done s (skip c s) :=
  advanceArm_done (before_logIf ..) ht hp

theorem gated_done {c : Cond} {effect : State → State} {s t : State} (ht : s.thumb = false)
    (hp : alignPc s.thumb s.pc = s.pc) (h : gated c effect s = .next t) (he : Done s (effect s)) : Done s t := by
  unfold gated at h
  cases h
  split
  · exact he
  · exact skip_done c ht hp

theorem next_done {s t u : State} (h : (.next u : Host.Outcome State Fault Refusal) = .next t) (he : Done s u) : Done s t := by
  cases h
  exact he

/-- The write-back of a base (R238). -/
theorem writeBack_before (rn : Reg) (offaddr : Word) (wb : Bool) (t : State) : Before t (writeBack rn offaddr wb t) := by
  unfold writeBack
  split
  · split
    · exact before_log ..
    · exact before_setReg ..
  · exact .refl t

/-- A branch with link (R261, R377). -/
theorem branchLink_done (s : State) (target r : Word) : Done s (writePc target (s.setReg linkReg r)) :=
  (before_setReg ..).done (writePc_done ..)

/-! ### ARM -/

section Arm

variable {s : State} (ht : s.thumb = false) (hp : alignPc s.thumb s.pc = s.pc)
include ht hp

theorem finishDp_done {t : State} (sf : Bool) (rd : Reg) (r ft : Word)
    (h : Before s t) (hf : ∀ u, Before s u → Before s (u.withCpsr ft)) : Done s (finishDp sf rd r ft t) := by
  unfold finishDp
  split
  · split
    · exact (h.ran.trans (restoreCpsr_ran ..)).done (writePc_done ..)
    · exact h.done (writePc_done ..)
  · split
    · exact advanceArm_done (hf _ (h.trans (before_setReg ..))) ht hp
    · exact advanceArm_done (h.trans (before_setReg ..)) ht hp

theorem logicalDp_done (sf : Bool) (rd rn : Reg) (op2 : Operand2) (f : Word → Word → Word) :
    Done s (logicalDp sf rd rn op2 f s) :=
  finishDp_done ht hp _ _ _ _ (before_charge ..) fun _ h => before_logicalFlags h ..

theorem arithmeticDp_done (sf : Bool) (rd rn : Reg) (op2 : Operand2) (f : Word → Word → Bool → Sum) :
    Done s (arithmeticDp sf rd rn op2 f s) :=
  finishDp_done ht hp _ _ _ _ (before_charge ..) fun _ h => before_arithmeticFlags h ..

theorem moveDp_done (sf : Bool) (rd : Reg) (op2 : Operand2) (f : Word → Word) : Done s (moveDp sf rd op2 f s) :=
  finishDp_done ht hp _ _ _ _ (before_charge ..) fun _ h => before_logicalFlags h ..

theorem logicalTest_done (rn : Reg) (op2 : Operand2) (f : Word → Word → Word) : Done s (logicalTest rn op2 f s) :=
  advanceArm_done (before_logicalFlags (before_charge ..) ..) ht hp

theorem arithmeticTest_done (rn : Reg) (op2 : Operand2) (f : Word → Word → Sum) : Done s (arithmeticTest rn op2 f s) :=
  advanceArm_done (before_arithmeticFlags (before_charge ..) ..) ht hp

theorem mrsEffect_done (p : StatusWord) (rd : Reg) : Done s (mrsEffect p rd s) :=
  writeArm_done _ _ ((readStatus_before ..).trans (before_logIf ..)) ht hp

theorem msr_done (p : StatusWord) (fsxc : BitVec 4) (v : Word) : Done s (advanceArm (msrWrite p fsxc v s)) :=
  advanceArm_done (msrWrite_before ..) ht hp

theorem multiplyEffect_done (sf : Bool) (rd rs rm : Reg) (acc : State → Word) (extra : Nat) (usesPc : Bool) :
    Done s (multiplyEffect sf rd rs rm acc extra usesPc s) := by
  unfold multiplyEffect
  have h := ((before_logIf s (rd == rm) (.unpredictable .mulRdRm)).trans
    (before_logIf _ usesPc (.unpredictable .mulR15))).trans
    (before_charge _ (mulCycles (s.armReg rs) true + extra))
  refine writeArm_done _ _ ?_ ht hp
  split
  · exact before_nzFlags h _
  · exact h

theorem multiplyLongEffect_done (signed acc sf : Bool) (rdHi rdLo rs rm : Reg) :
    Done s (multiplyLongEffect signed acc sf rdHi rdLo rs rm s) := by
  unfold multiplyLongEffect
  have start := ((before_logIf s (rdHi == rdLo || rdHi == rm || rdLo == rm) (.unpredictable .mullOverlap)).trans
    (before_logIf _ (rdHi == 15 || rdLo == 15 || rs == 15 || rm == 15) (.unpredictable .mullR15))).trans
    (before_charge _ (mulCycles (s.armReg rs) signed + (if acc then 2 else 1)))
  have flagged : ∀ p : BitVec 64, ∀ t, Before s t → Before s (if sf then t.withCpsr (nzFlags64 s.cpsr p) else t) := by
    intro p t h
    split
    · exact before_nzFlags64 h _
    · exact h
  have tail : ∀ (lo hi : Word) (t : State), Before s t →
      Done s (if rdHi = 15 ∨ rdLo = 15 then writeLong rdHi hi (writeLong rdLo lo t)
        else advanceArm (writeLong rdHi hi (writeLong rdLo lo t))) := by
    intro lo hi t h
    unfold writeLong
    by_cases h1 : rdHi = 15
    · rw [if_pos (Or.inl h1), if_pos h1]
      split
      · exact (h.ran.trans (writePc_done ..).ran).done (writePc_done ..)
      · exact (h.ran.trans (before_setReg ..).ran).done (writePc_done ..)
    · rw [if_neg h1]
      by_cases h2 : rdLo = 15
      · rw [if_pos (Or.inr h2), if_pos h2]
        have k := writePc_done lo t
        have b := before_setReg (writePc lo t) rdHi hi
        refine ⟨(h.ran.trans k.ran).trans b.ran, ?_⟩
        rw [b.thumb, b.pc]
        exact k.pc
      · rw [if_neg (by simp [h1, h2]), if_neg h2]
        exact advanceArm_done ((h.trans (before_setReg ..)).trans (before_setReg ..)) ht hp
  exact tail _ _ _ (flagged _ _ start)

theorem loadEffect_done {load : Word → State → Word × State} (hl : ∀ a t, Looked t (load a t).2) (ad : Addressed)
    (rn rd : Reg) (toPc : Option Reason) : Done s (loadEffect load ad rn rd toPc s) := by
  unfold loadEffect
  have h := (((before_logIf s ad.pcOffset (.unpredictable .offsetR15)).trans (hl ad.addr _).before).trans
    (writeBack_before rn ad.offaddr ad.wb _)).trans (before_charge _ 1)
  refine writeArm_done _ _ ?_ ht hp
  split
  · exact h.trans (before_logIf ..)
  · exact h

theorem storeEffect_done {store : Word → Word → State → State} (hs : ∀ a v t, OnBus t (store a v t)) (ad : Addressed)
    (rn rd : Reg) : Done s (storeEffect store ad rn rd s) := by
  unfold storeEffect
  exact advanceArm_done (((before_logIf ..).trans (hs _ _ _).before).trans (writeBack_before ..)) ht hp

theorem swapEffect_done {load : Word → State → Word × State} {store : Word → Word → State → State}
    (hl : ∀ a t, Looked t (load a t).2) (hs : ∀ a v t, OnBus t (store a v t)) (rn rd rm : Reg) :
    Done s (swapEffect load store rn rd rm s) := by
  unfold swapEffect
  exact writeArm_done _ _ ((((before_logIf ..).trans (hl _ _).before).trans (hs _ _ _).before).trans (before_charge ..)) ht hp

end Arm

/-- The loads of a block keep everything but registers and the accounting. -/
theorem loadBlock_before (bank : Mode) (regs : List Reg) (a : Word) (s : State) (newPc : Option Word) :
    Before s (loadBlock bank regs a s newPc).1 := by
  induction regs generalizing a s newPc with
  | nil => exact .refl s
  | cons r rest ih =>
    simp only [loadBlock]
    split
    · exact (memRead_looked ..).before.trans (ih ..)
    · exact ((memRead_looked ..).before.trans (before_setBankReg ..)).trans (ih ..)

/-- The stores of a block are bus writes. -/
theorem storeBlock_onBus (value : Nat → Reg → Word) (k : Nat) (regs : List Reg) (a : Word) (s : State) :
    OnBus s (storeBlock value k regs a s) := by
  induction regs generalizing k a s with
  | nil => exact .refl s
  | cons r rest ih => exact (memWrite_onBus ..).trans (ih ..)

theorem blockEvents_before (userBank w : Bool) (rn : Reg) (s : State) : Before s (blockEvents userBank w rn s) :=
  (before_logIf ..).trans (before_logIf ..)

theorem blockWriteBack_before (w : Bool) (rn : Reg) (final : Word) (s : State) :
    Before s (blockWriteBack w rn final s) := by
  unfold blockWriteBack
  split
  · exact before_setReg ..
  · exact .refl s

theorem ldmEffect_done {s : State} (ht : s.thumb = false) (hp : alignPc s.thumb s.pc = s.pc) (mode : BlockMode)
    (sbit w : Bool) (rn : Reg) (list : BitVec 16) : Done s (ldmEffect mode sbit w rn list s) := by
  have h : ∀ user final bank regs start, Before s
      ((loadBlock bank regs start (blockWriteBack w rn final (blockEvents user w rn s)) none).1.charge 1) := fun _ _ _ _ _ =>
    (((blockEvents_before ..).trans (blockWriteBack_before ..)).trans (loadBlock_before ..)).trans (before_charge ..)
  simp only [ldmEffect]
  split
  · split
    · exact ((h _ _ _ _ _).ran.trans (restoreCpsr_ran ..)).done (writePc_done ..)
    · exact (h _ _ _ _ _).done (writePc_done ..)
  · exact advanceArm_done (h _ _ _ _ _) ht hp

theorem stmEffect_done {s : State} (ht : s.thumb = false) (hp : alignPc s.thumb s.pc = s.pc) (mode : BlockMode)
    (sbit w : Bool) (rn : Reg) (list : BitVec 16) : Done s (stmEffect mode sbit w rn list s) :=
  advanceArm_done (((blockEvents_before ..).trans (storeBlock_onBus ..).before).trans (blockWriteBack_before ..)) ht hp

theorem branchExchange_done (target : Word) (s : State) : Done s (branchExchange target s) :=
  ((Ran.refl s).withCpsr _ fun hv => by rw [putThumb_mode]; exact hv).done (writePc_done ..)

/-! ### THUMB -/

section Thumb

variable {s : State} (ht : s.thumb = true) (hp : alignPc s.thumb s.pc = s.pc)
include ht hp

theorem thumbLogical_done {t : State} (h : Before s t) (hc : t.cpsr = s.cpsr) (rd : Option LoReg) (r : Word) (sc : Bool) :
    Done s (thumbLogical rd r sc t) := by
  unfold thumbLogical
  rw [hc]
  refine advanceThumb_done (before_logicalFlags ?_ ..) ht hp
  split
  · exact h.trans (before_setReg ..)
  · exact h

theorem thumbArithmetic_done {t : State} (h : Before s t) (hc : t.cpsr = s.cpsr) (rd : Option LoReg) (r : Sum) :
    Done s (thumbArithmetic rd r t) := by
  unfold thumbArithmetic
  rw [hc]
  refine advanceThumb_done (before_arithmeticFlags ?_ ..) ht hp
  split
  · exact h.trans (before_setReg ..)
  · exact h

theorem thumbShiftReg_done (kind : ShiftKind) (rs rd : LoReg) : Done s (thumbShiftReg kind rs rd s) := by
  unfold thumbShiftReg
  exact thumbLogical_done ht hp (before_charge ..) rfl ..

theorem thumbShiftImm_done (kind : ShiftKind) (imm5 : BitVec 5) (rs rd : LoReg) :
    Done s (thumbShiftImm kind imm5 rs rd s) := by
  unfold thumbShiftImm
  exact thumbLogical_done ht hp (.refl s) rfl ..

theorem thumbSetLoReg_done (rd : LoReg) (v : Word) : Done s (advanceThumb (s.setLoReg rd v)) :=
  advanceThumb_done (before_setReg ..) ht hp

theorem thumbSetReg_done (rd : Reg) (v : Word) : Done s (advanceThumb (s.setReg rd v)) :=
  advanceThumb_done (before_setReg ..) ht hp

theorem thumbLoad_done {load : Word → State → Word × State} (hl : ∀ a t, Looked t (load a t).2) (a : Word) (rd : LoReg) :
    Done s (thumbLoad load a rd s) :=
  advanceThumb_done (((hl _ _).before.trans (before_charge ..)).trans (before_setReg ..)) ht hp

theorem thumbStore_done {store : Word → Word → State → State} (hs : ∀ a v t, OnBus t (store a v t)) (a : Word) (rd : LoReg) :
    Done s (thumbStore store a rd s) :=
  advanceThumb_done (hs _ _ _).before ht hp

theorem thumbStoreMultiple_done (value : Nat → Reg → Word) (regs : List Reg) (start : Word) (base : Reg) (final : Word) :
    Done s (thumbStoreMultiple value regs start base final s) := by
  unfold thumbStoreMultiple
  refine advanceThumb_done (Before.trans ?_ (before_setReg ..)) ht hp
  split
  · exact (memWrite_onBus ..).before
  · exact (storeBlock_onBus ..).before

theorem thumbLoadMultiple_done (regs : List Reg) (start : Word) (base : Reg) (final : Word) :
    Done s (thumbLoadMultiple regs start base final s) := by
  have h : ∀ m regs, Before s ((loadBlock m regs start (s.setReg base final) none).1.charge 1) := fun _ _ =>
    ((before_setReg ..).trans (loadBlock_before ..)).trans (before_charge ..)
  simp only [thumbLoadMultiple]
  split
  · exact (h _ _).done (writePc_done ..)
  · exact advanceThumb_done (h _ _) ht hp

theorem thumbBCond_done (c : Cond) (target : Word) :
    Done s (if condPassed s c then writePc target s else advanceThumb s) := by
  split
  · exact writePc_done ..
  · exact advanceThumb_done (.refl s) ht hp

end Thumb

/-! ### All instructions -/

/-- A word decodes to an ARM instruction. -/
theorem decodeArm_code (w : Word) : codeIsThumb (encode (decodeArm w)) = false := by
  unfold decodeArm decodeDataProcessing decodeStatusTransfer decodeMultiply decodeMultiplyLong decodeSwap
    decodeHalfTransfer decodeSingleTransfer decodeBlockTransfer decodeCoprocTransfer decodeCoprocRegister decodeArmUndefined
  simp only
  repeat' split
  all_goals rfl

/-- A halfword decodes to a THUMB instruction. -/
theorem decodeThumb_code (h : Half) : codeIsThumb (encode (decodeThumb h)) = true := by
  unfold decodeThumb decodeFormat1 decodeFormat2 decodeFormat3 decodeFormat4 decodeFormat5 decodeFormat7 decodeFormat8
    decodeFormat9
  simp only
  repeat' split
  all_goals rfl

theorem execArmBx_done (c : Cond) (rn : Reg) {s t : State} (ht : s.thumb = false) (hp : alignPc s.thumb s.pc = s.pc)
    (hx : execArmBx c rn s = .next t) : Done s t :=
  gated_done ht hp hx (branchExchange_done ..)

theorem execArmBkpt_done (c : Cond) (imm12 : BitVec 12) (imm4 : BitVec 4) {s t : State} (ht : s.thumb = false) (hp : alignPc s.thumb s.pc = s.pc)
    (hx : execArmBkpt c imm12 imm4 s = .next t) : Done s t :=
  gated_done ht hp hx (illegal_done rfl s hp)

theorem execArmMul_done (c : Cond) (sf : Bool) (rd rs rm : Reg) {s t : State} (ht : s.thumb = false) (hp : alignPc s.thumb s.pc = s.pc)
    (hx : execArmMul c sf rd rs rm s = .next t) : Done s t :=
  gated_done ht hp hx (multiplyEffect_done ht hp ..)

theorem execArmMla_done (c : Cond) (sf : Bool) (rd rn rs rm : Reg) {s t : State} (ht : s.thumb = false) (hp : alignPc s.thumb s.pc = s.pc)
    (hx : execArmMla c sf rd rn rs rm s = .next t) : Done s t :=
  gated_done ht hp hx (multiplyEffect_done ht hp ..)

theorem execArmUmull_done (c : Cond) (sf : Bool) (rdHi rdLo rs rm : Reg) {s t : State} (ht : s.thumb = false) (hp : alignPc s.thumb s.pc = s.pc)
    (hx : execArmUmull c sf rdHi rdLo rs rm s = .next t) : Done s t :=
  gated_done ht hp hx (multiplyLongEffect_done ht hp ..)

theorem execArmUmlal_done (c : Cond) (sf : Bool) (rdHi rdLo rs rm : Reg) {s t : State} (ht : s.thumb = false) (hp : alignPc s.thumb s.pc = s.pc)
    (hx : execArmUmlal c sf rdHi rdLo rs rm s = .next t) : Done s t :=
  gated_done ht hp hx (multiplyLongEffect_done ht hp ..)

theorem execArmSmull_done (c : Cond) (sf : Bool) (rdHi rdLo rs rm : Reg) {s t : State} (ht : s.thumb = false) (hp : alignPc s.thumb s.pc = s.pc)
    (hx : execArmSmull c sf rdHi rdLo rs rm s = .next t) : Done s t :=
  gated_done ht hp hx (multiplyLongEffect_done ht hp ..)

theorem execArmSmlal_done (c : Cond) (sf : Bool) (rdHi rdLo rs rm : Reg) {s t : State} (ht : s.thumb = false) (hp : alignPc s.thumb s.pc = s.pc)
    (hx : execArmSmlal c sf rdHi rdLo rs rm s = .next t) : Done s t :=
  gated_done ht hp hx (multiplyLongEffect_done ht hp ..)

theorem execArmSwp_done (c : Cond) (rn rd rm : Reg) {s t : State} (ht : s.thumb = false) (hp : alignPc s.thumb s.pc = s.pc)
    (hx : execArmSwp c rn rd rm s = .next t) : Done s t :=
  gated_done ht hp hx (swapEffect_done ht hp loadWord_looked storeWord_onBus ..)

theorem execArmSwpb_done (c : Cond) (rn rd rm : Reg) {s t : State} (ht : s.thumb = false) (hp : alignPc s.thumb s.pc = s.pc)
    (hx : execArmSwpb c rn rd rm s = .next t) : Done s t :=
  gated_done ht hp hx (swapEffect_done ht hp loadByte_looked storeByte_onBus ..)

theorem execArmUndMulSwap_done (c : Cond) (hi : BitVec 17) (lo : BitVec 4) {s t : State} (ht : s.thumb = false) (hp : alignPc s.thumb s.pc = s.pc)
    (hx : execArmUndMulSwap c hi lo s = .next t) : Done s t :=
  gated_done ht hp hx (illegal_done rfl s hp)

theorem execArmUndLdrdStrd_done (c : Cond) (puiw : BitVec 4) (mid : BitVec 12) (h : Bool) (lo : BitVec 4) {s t : State} (ht : s.thumb = false) (hp : alignPc s.thumb s.pc = s.pc)
    (hx : execArmUndLdrdStrd c puiw mid h lo s = .next t) : Done s t :=
  gated_done ht hp hx (illegal_done rfl s hp)

theorem execArmLdrh_done (c : Cond) (ix : Index) (up : Bool) (off : HalfOffset) (rn rd : Reg) {s t : State} (ht : s.thumb = false) (hp : alignPc s.thumb s.pc = s.pc)
    (hx : execArmLdrh c ix up off rn rd s = .next t) : Done s t :=
  gated_done ht hp hx (loadEffect_done ht hp loadHalf_looked ..)

theorem execArmStrh_done (c : Cond) (ix : Index) (up : Bool) (off : HalfOffset) (rn rd : Reg) {s t : State} (ht : s.thumb = false) (hp : alignPc s.thumb s.pc = s.pc)
    (hx : execArmStrh c ix up off rn rd s = .next t) : Done s t :=
  gated_done ht hp hx (storeEffect_done ht hp storeHalf_onBus ..)

theorem execArmLdrsb_done (c : Cond) (ix : Index) (up : Bool) (off : HalfOffset) (rn rd : Reg) {s t : State} (ht : s.thumb = false) (hp : alignPc s.thumb s.pc = s.pc)
    (hx : execArmLdrsb c ix up off rn rd s = .next t) : Done s t :=
  gated_done ht hp hx (loadEffect_done ht hp loadSignedByte_looked ..)

theorem execArmLdrsh_done (c : Cond) (ix : Index) (up : Bool) (off : HalfOffset) (rn rd : Reg) {s t : State} (ht : s.thumb = false) (hp : alignPc s.thumb s.pc = s.pc)
    (hx : execArmLdrsh c ix up off rn rd s = .next t) : Done s t :=
  gated_done ht hp hx (loadEffect_done ht hp loadSignedHalf_looked ..)

theorem execArmMrs_done (c : Cond) (p : StatusWord) (rd : Reg) {s t : State} (ht : s.thumb = false) (hp : alignPc s.thumb s.pc = s.pc)
    (hx : execArmMrs c p rd s = .next t) : Done s t :=
  gated_done ht hp hx (mrsEffect_done ht hp ..)

theorem execArmMrsBit25_done (c : Cond) (p : StatusWord) (rd : Reg) {s t : State} (ht : s.thumb = false) (hp : alignPc s.thumb s.pc = s.pc)
    (hx : execArmMrsBit25 c p rd s = .next t) : Done s t :=
  gated_done ht hp hx (mrsEffect_done ht hp ..)

theorem execArmMsrReg_done (c : Cond) (p : StatusWord) (fsxc : BitVec 4) (rm : Reg) {s t : State} (ht : s.thumb = false) (hp : alignPc s.thumb s.pc = s.pc)
    (hx : execArmMsrReg c p fsxc rm s = .next t) : Done s t :=
  gated_done ht hp hx (msr_done ht hp ..)

theorem execArmMsrImm_done (c : Cond) (p : StatusWord) (fsxc rot : BitVec 4) (imm8 : BitVec 8) {s t : State} (ht : s.thumb = false) (hp : alignPc s.thumb s.pc = s.pc)
    (hx : execArmMsrImm c p fsxc rot imm8 s = .next t) : Done s t :=
  gated_done ht hp hx (msr_done ht hp ..)

theorem execArmAnd_done (c : Cond) (sf : Bool) (rd rn : Reg) (op2 : Operand2) {s t : State} (ht : s.thumb = false) (hp : alignPc s.thumb s.pc = s.pc)
    (hx : execArmAnd c sf rd rn op2 s = .next t) : Done s t :=
  gated_done ht hp hx (logicalDp_done ht hp ..)

theorem execArmEor_done (c : Cond) (sf : Bool) (rd rn : Reg) (op2 : Operand2) {s t : State} (ht : s.thumb = false) (hp : alignPc s.thumb s.pc = s.pc)
    (hx : execArmEor c sf rd rn op2 s = .next t) : Done s t :=
  gated_done ht hp hx (logicalDp_done ht hp ..)

theorem execArmSub_done (c : Cond) (sf : Bool) (rd rn : Reg) (op2 : Operand2) {s t : State} (ht : s.thumb = false) (hp : alignPc s.thumb s.pc = s.pc)
    (hx : execArmSub c sf rd rn op2 s = .next t) : Done s t :=
  gated_done ht hp hx (arithmeticDp_done ht hp ..)

theorem execArmRsb_done (c : Cond) (sf : Bool) (rd rn : Reg) (op2 : Operand2) {s t : State} (ht : s.thumb = false) (hp : alignPc s.thumb s.pc = s.pc)
    (hx : execArmRsb c sf rd rn op2 s = .next t) : Done s t :=
  gated_done ht hp hx (arithmeticDp_done ht hp ..)

theorem execArmAdd_done (c : Cond) (sf : Bool) (rd rn : Reg) (op2 : Operand2) {s t : State} (ht : s.thumb = false) (hp : alignPc s.thumb s.pc = s.pc)
    (hx : execArmAdd c sf rd rn op2 s = .next t) : Done s t :=
  gated_done ht hp hx (arithmeticDp_done ht hp ..)

theorem execArmAdc_done (c : Cond) (sf : Bool) (rd rn : Reg) (op2 : Operand2) {s t : State} (ht : s.thumb = false) (hp : alignPc s.thumb s.pc = s.pc)
    (hx : execArmAdc c sf rd rn op2 s = .next t) : Done s t :=
  gated_done ht hp hx (arithmeticDp_done ht hp ..)

theorem execArmSbc_done (c : Cond) (sf : Bool) (rd rn : Reg) (op2 : Operand2) {s t : State} (ht : s.thumb = false) (hp : alignPc s.thumb s.pc = s.pc)
    (hx : execArmSbc c sf rd rn op2 s = .next t) : Done s t :=
  gated_done ht hp hx (arithmeticDp_done ht hp ..)

theorem execArmRsc_done (c : Cond) (sf : Bool) (rd rn : Reg) (op2 : Operand2) {s t : State} (ht : s.thumb = false) (hp : alignPc s.thumb s.pc = s.pc)
    (hx : execArmRsc c sf rd rn op2 s = .next t) : Done s t :=
  gated_done ht hp hx (arithmeticDp_done ht hp ..)

theorem execArmTst_done (c : Cond) (rn : Reg) (op2 : Operand2) {s t : State} (ht : s.thumb = false) (hp : alignPc s.thumb s.pc = s.pc)
    (hx : execArmTst c rn op2 s = .next t) : Done s t :=
  gated_done ht hp hx (logicalTest_done ht hp ..)

theorem execArmTeq_done (c : Cond) (rn : Reg) (op2 : Operand2) {s t : State} (ht : s.thumb = false) (hp : alignPc s.thumb s.pc = s.pc)
    (hx : execArmTeq c rn op2 s = .next t) : Done s t :=
  gated_done ht hp hx (logicalTest_done ht hp ..)

theorem execArmCmp_done (c : Cond) (rn : Reg) (op2 : Operand2) {s t : State} (ht : s.thumb = false) (hp : alignPc s.thumb s.pc = s.pc)
    (hx : execArmCmp c rn op2 s = .next t) : Done s t :=
  gated_done ht hp hx (arithmeticTest_done ht hp ..)

theorem execArmCmn_done (c : Cond) (rn : Reg) (op2 : Operand2) {s t : State} (ht : s.thumb = false) (hp : alignPc s.thumb s.pc = s.pc)
    (hx : execArmCmn c rn op2 s = .next t) : Done s t :=
  gated_done ht hp hx (arithmeticTest_done ht hp ..)

theorem execArmOrr_done (c : Cond) (sf : Bool) (rd rn : Reg) (op2 : Operand2) {s t : State} (ht : s.thumb = false) (hp : alignPc s.thumb s.pc = s.pc)
    (hx : execArmOrr c sf rd rn op2 s = .next t) : Done s t :=
  gated_done ht hp hx (logicalDp_done ht hp ..)

theorem execArmMov_done (c : Cond) (sf : Bool) (rd : Reg) (op2 : Operand2) {s t : State} (ht : s.thumb = false) (hp : alignPc s.thumb s.pc = s.pc)
    (hx : execArmMov c sf rd op2 s = .next t) : Done s t :=
  gated_done ht hp hx (moveDp_done ht hp ..)

theorem execArmBic_done (c : Cond) (sf : Bool) (rd rn : Reg) (op2 : Operand2) {s t : State} (ht : s.thumb = false) (hp : alignPc s.thumb s.pc = s.pc)
    (hx : execArmBic c sf rd rn op2 s = .next t) : Done s t :=
  gated_done ht hp hx (logicalDp_done ht hp ..)

theorem execArmMvn_done (c : Cond) (sf : Bool) (rd : Reg) (op2 : Operand2) {s t : State} (ht : s.thumb = false) (hp : alignPc s.thumb s.pc = s.pc)
    (hx : execArmMvn c sf rd op2 s = .next t) : Done s t :=
  gated_done ht hp hx (moveDp_done ht hp ..)

theorem execArmUnd_done (c : Cond) (hi : BitVec 20) (lo : BitVec 4) {s t : State} (ht : s.thumb = false) (hp : alignPc s.thumb s.pc = s.pc)
    (hx : execArmUnd c hi lo s = .next t) : Done s t :=
  gated_done ht hp hx (illegal_done rfl s hp)

theorem execArmLdrt_done (c : Cond) (up : Bool) (off : WordOffset) (rn rd : Reg) {s t : State} (ht : s.thumb = false) (hp : alignPc s.thumb s.pc = s.pc)
    (hx : execArmLdrt c up off rn rd s = .next t) : Done s t :=
  gated_done ht hp hx (loadEffect_done ht hp loadWord_looked ..)

theorem execArmLdrbt_done (c : Cond) (up : Bool) (off : WordOffset) (rn rd : Reg) {s t : State} (ht : s.thumb = false) (hp : alignPc s.thumb s.pc = s.pc)
    (hx : execArmLdrbt c up off rn rd s = .next t) : Done s t :=
  gated_done ht hp hx (loadEffect_done ht hp loadByte_looked ..)

theorem execArmStrt_done (c : Cond) (up : Bool) (off : WordOffset) (rn rd : Reg) {s t : State} (ht : s.thumb = false) (hp : alignPc s.thumb s.pc = s.pc)
    (hx : execArmStrt c up off rn rd s = .next t) : Done s t :=
  gated_done ht hp hx (storeEffect_done ht hp storeWord_onBus ..)

theorem execArmStrbt_done (c : Cond) (up : Bool) (off : WordOffset) (rn rd : Reg) {s t : State} (ht : s.thumb = false) (hp : alignPc s.thumb s.pc = s.pc)
    (hx : execArmStrbt c up off rn rd s = .next t) : Done s t :=
  gated_done ht hp hx (storeEffect_done ht hp storeByte_onBus ..)

theorem execArmLdr_done (c : Cond) (ix : Index) (up : Bool) (off : WordOffset) (rn rd : Reg) {s t : State} (ht : s.thumb = false) (hp : alignPc s.thumb s.pc = s.pc)
    (hx : execArmLdr c ix up off rn rd s = .next t) : Done s t :=
  gated_done ht hp hx (loadEffect_done ht hp loadWord_looked ..)

theorem execArmStr_done (c : Cond) (ix : Index) (up : Bool) (off : WordOffset) (rn rd : Reg) {s t : State} (ht : s.thumb = false) (hp : alignPc s.thumb s.pc = s.pc)
    (hx : execArmStr c ix up off rn rd s = .next t) : Done s t :=
  gated_done ht hp hx (storeEffect_done ht hp storeWord_onBus ..)

theorem execArmLdrb_done (c : Cond) (ix : Index) (up : Bool) (off : WordOffset) (rn rd : Reg) {s t : State} (ht : s.thumb = false) (hp : alignPc s.thumb s.pc = s.pc)
    (hx : execArmLdrb c ix up off rn rd s = .next t) : Done s t :=
  gated_done ht hp hx (loadEffect_done ht hp loadByte_looked ..)

theorem execArmStrb_done (c : Cond) (ix : Index) (up : Bool) (off : WordOffset) (rn rd : Reg) {s t : State} (ht : s.thumb = false) (hp : alignPc s.thumb s.pc = s.pc)
    (hx : execArmStrb c ix up off rn rd s = .next t) : Done s t :=
  gated_done ht hp hx (storeEffect_done ht hp storeByte_onBus ..)

theorem execArmLdm_done (c : Cond) (mode : BlockMode) (sbit w : Bool) (rn : Reg) (list : BitVec 16) {s t : State} (ht : s.thumb = false) (hp : alignPc s.thumb s.pc = s.pc)
    (hx : execArmLdm c mode sbit w rn list s = .next t) : Done s t :=
  gated_done ht hp hx (ldmEffect_done ht hp ..)

theorem execArmStm_done (c : Cond) (mode : BlockMode) (sbit w : Bool) (rn : Reg) (list : BitVec 16) {s t : State} (ht : s.thumb = false) (hp : alignPc s.thumb s.pc = s.pc)
    (hx : execArmStm c mode sbit w rn list s = .next t) : Done s t :=
  gated_done ht hp hx (stmEffect_done ht hp ..)

theorem execArmB_done (c : Cond) (off24 : BitVec 24) {s t : State} (ht : s.thumb = false) (hp : alignPc s.thumb s.pc = s.pc)
    (hx : execArmB c off24 s = .next t) : Done s t :=
  gated_done ht hp hx (writePc_done ..)

theorem execArmBl_done (c : Cond) (off24 : BitVec 24) {s t : State} (ht : s.thumb = false) (hp : alignPc s.thumb s.pc = s.pc)
    (hx : execArmBl c off24 s = .next t) : Done s t :=
  gated_done ht hp hx (branchLink_done ..)

theorem execArmLdc_done (c : Cond) (punw rn crd cp : BitVec 4) (off8 : BitVec 8) {s t : State} (ht : s.thumb = false) (hp : alignPc s.thumb s.pc = s.pc)
    (hx : execArmLdc c punw rn crd cp off8 s = .next t) : Done s t :=
  gated_done ht hp hx (illegal_done rfl s hp)

theorem execArmStc_done (c : Cond) (punw rn crd cp : BitVec 4) (off8 : BitVec 8) {s t : State} (ht : s.thumb = false) (hp : alignPc s.thumb s.pc = s.pc)
    (hx : execArmStc c punw rn crd cp off8 s = .next t) : Done s t :=
  gated_done ht hp hx (illegal_done rfl s hp)

theorem execArmCdp_done (c : Cond) (opc1 crn crd cp : BitVec 4) (opc2 : BitVec 3) (crm : BitVec 4) {s t : State} (ht : s.thumb = false) (hp : alignPc s.thumb s.pc = s.pc)
    (hx : execArmCdp c opc1 crn crd cp opc2 crm s = .next t) : Done s t :=
  gated_done ht hp hx (illegal_done rfl s hp)

theorem execArmMrc_done (c : Cond) (opc1 : BitVec 3) (crn rd cp : BitVec 4) (opc2 : BitVec 3) (crm : BitVec 4) {s t : State} (ht : s.thumb = false) (hp : alignPc s.thumb s.pc = s.pc)
    (hx : execArmMrc c opc1 crn rd cp opc2 crm s = .next t) : Done s t :=
  gated_done ht hp hx (illegal_done rfl s hp)

theorem execArmMcr_done (c : Cond) (opc1 : BitVec 3) (crn rd cp : BitVec 4) (opc2 : BitVec 3) (crm : BitVec 4) {s t : State} (ht : s.thumb = false) (hp : alignPc s.thumb s.pc = s.pc)
    (hx : execArmMcr c opc1 crn rd cp opc2 crm s = .next t) : Done s t :=
  gated_done ht hp hx (illegal_done rfl s hp)

theorem execArmSwi_done (c : Cond) (comment : BitVec 24) {s t : State} (ht : s.thumb = false) (hp : alignPc s.thumb s.pc = s.pc)
    (hx : execArmSwi c comment s = .next t) : Done s t :=
  gated_done ht hp hx (enterException_done (by decide) s)

theorem execThumbSwi_done (imm8 : BitVec 8) {s t : State} (ht : s.thumb = true) (hp : alignPc s.thumb s.pc = s.pc)
    (hx : execThumbSwi imm8 s = .next t) : Done s t :=
  next_done hx (enterException_done (by decide) s)

theorem execThumbUndCond_done (imm8 : BitVec 8) {s t : State} (ht : s.thumb = true) (hp : alignPc s.thumb s.pc = s.pc)
    (hx : execThumbUndCond imm8 s = .next t) : Done s t :=
  next_done hx (illegal_done rfl s hp)

theorem execThumbBCond_done (c : Cond) (soff8 : BitVec 8) {s t : State} (ht : s.thumb = true) (hp : alignPc s.thumb s.pc = s.pc)
    (hx : execThumbBCond c soff8 s = .next t) : Done s t :=
  next_done hx (thumbBCond_done ht hp ..)

theorem execThumbBkpt_done (imm8 : BitVec 8) {s t : State} (ht : s.thumb = true) (hp : alignPc s.thumb s.pc = s.pc)
    (hx : execThumbBkpt imm8 s = .next t) : Done s t :=
  next_done hx (illegal_done rfl s hp)

theorem execThumbAddSpImm_done (imm7 : BitVec 7) {s t : State} (ht : s.thumb = true) (hp : alignPc s.thumb s.pc = s.pc)
    (hx : execThumbAddSpImm imm7 s = .next t) : Done s t :=
  next_done hx (thumbSetReg_done ht hp ..)

theorem execThumbAddSpNegImm_done (imm7 : BitVec 7) {s t : State} (ht : s.thumb = true) (hp : alignPc s.thumb s.pc = s.pc)
    (hx : execThumbAddSpNegImm imm7 s = .next t) : Done s t :=
  next_done hx (thumbSetReg_done ht hp ..)

theorem execThumbPush_done (r : Bool) (rlist : BitVec 8) {s t : State} (ht : s.thumb = true) (hp : alignPc s.thumb s.pc = s.pc)
    (hx : execThumbPush r rlist s = .next t) : Done s t :=
  next_done hx (thumbStoreMultiple_done ht hp ..)

theorem execThumbPop_done (r : Bool) (rlist : BitVec 8) {s t : State} (ht : s.thumb = true) (hp : alignPc s.thumb s.pc = s.pc)
    (hx : execThumbPop r rlist s = .next t) : Done s t :=
  next_done hx (thumbLoadMultiple_done ht hp ..)

theorem execThumbUnd1011_done (low : BitVec 12) {s t : State} (ht : s.thumb = true) (hp : alignPc s.thumb s.pc = s.pc)
    (hx : execThumbUnd1011 low s = .next t) : Done s t :=
  next_done hx (illegal_done rfl s hp)

theorem execThumbAddReg_done (rn rs rd : LoReg) {s t : State} (ht : s.thumb = true) (hp : alignPc s.thumb s.pc = s.pc)
    (hx : execThumbAddReg rn rs rd s = .next t) : Done s t :=
  next_done hx (thumbArithmetic_done ht hp (.refl s) rfl ..)

theorem execThumbSubReg_done (rn rs rd : LoReg) {s t : State} (ht : s.thumb = true) (hp : alignPc s.thumb s.pc = s.pc)
    (hx : execThumbSubReg rn rs rd s = .next t) : Done s t :=
  next_done hx (thumbArithmetic_done ht hp (.refl s) rfl ..)

theorem execThumbAddImm3_done (imm3 : BitVec 3) (rs rd : LoReg) {s t : State} (ht : s.thumb = true) (hp : alignPc s.thumb s.pc = s.pc)
    (hx : execThumbAddImm3 imm3 rs rd s = .next t) : Done s t :=
  next_done hx (thumbArithmetic_done ht hp (.refl s) rfl ..)

theorem execThumbSubImm3_done (imm3 : BitVec 3) (rs rd : LoReg) {s t : State} (ht : s.thumb = true) (hp : alignPc s.thumb s.pc = s.pc)
    (hx : execThumbSubImm3 imm3 rs rd s = .next t) : Done s t :=
  next_done hx (thumbArithmetic_done ht hp (.refl s) rfl ..)

theorem execThumbLslImm_done (imm5 : BitVec 5) (rs rd : LoReg) {s t : State} (ht : s.thumb = true) (hp : alignPc s.thumb s.pc = s.pc)
    (hx : execThumbLslImm imm5 rs rd s = .next t) : Done s t :=
  next_done hx (thumbShiftImm_done ht hp ..)

theorem execThumbLsrImm_done (imm5 : BitVec 5) (rs rd : LoReg) {s t : State} (ht : s.thumb = true) (hp : alignPc s.thumb s.pc = s.pc)
    (hx : execThumbLsrImm imm5 rs rd s = .next t) : Done s t :=
  next_done hx (thumbShiftImm_done ht hp ..)

theorem execThumbAsrImm_done (imm5 : BitVec 5) (rs rd : LoReg) {s t : State} (ht : s.thumb = true) (hp : alignPc s.thumb s.pc = s.pc)
    (hx : execThumbAsrImm imm5 rs rd s = .next t) : Done s t :=
  next_done hx (thumbShiftImm_done ht hp ..)

theorem execThumbMovImm_done (rd : LoReg) (imm8 : BitVec 8) {s t : State} (ht : s.thumb = true) (hp : alignPc s.thumb s.pc = s.pc)
    (hx : execThumbMovImm rd imm8 s = .next t) : Done s t :=
  next_done hx (thumbLogical_done ht hp (.refl s) rfl ..)

theorem execThumbCmpImm_done (rd : LoReg) (imm8 : BitVec 8) {s t : State} (ht : s.thumb = true) (hp : alignPc s.thumb s.pc = s.pc)
    (hx : execThumbCmpImm rd imm8 s = .next t) : Done s t :=
  next_done hx (thumbArithmetic_done ht hp (.refl s) rfl ..)

theorem execThumbAddImm8_done (rd : LoReg) (imm8 : BitVec 8) {s t : State} (ht : s.thumb = true) (hp : alignPc s.thumb s.pc = s.pc)
    (hx : execThumbAddImm8 rd imm8 s = .next t) : Done s t :=
  next_done hx (thumbArithmetic_done ht hp (.refl s) rfl ..)

theorem execThumbSubImm8_done (rd : LoReg) (imm8 : BitVec 8) {s t : State} (ht : s.thumb = true) (hp : alignPc s.thumb s.pc = s.pc)
    (hx : execThumbSubImm8 rd imm8 s = .next t) : Done s t :=
  next_done hx (thumbArithmetic_done ht hp (.refl s) rfl ..)

theorem execThumbAnd_done (rs rd : LoReg) {s t : State} (ht : s.thumb = true) (hp : alignPc s.thumb s.pc = s.pc)
    (hx : execThumbAnd rs rd s = .next t) : Done s t :=
  next_done hx (thumbLogical_done ht hp (.refl s) rfl ..)

theorem execThumbEor_done (rs rd : LoReg) {s t : State} (ht : s.thumb = true) (hp : alignPc s.thumb s.pc = s.pc)
    (hx : execThumbEor rs rd s = .next t) : Done s t :=
  next_done hx (thumbLogical_done ht hp (.refl s) rfl ..)

theorem execThumbLslReg_done (rs rd : LoReg) {s t : State} (ht : s.thumb = true) (hp : alignPc s.thumb s.pc = s.pc)
    (hx : execThumbLslReg rs rd s = .next t) : Done s t :=
  next_done hx (thumbShiftReg_done ht hp ..)

theorem execThumbLsrReg_done (rs rd : LoReg) {s t : State} (ht : s.thumb = true) (hp : alignPc s.thumb s.pc = s.pc)
    (hx : execThumbLsrReg rs rd s = .next t) : Done s t :=
  next_done hx (thumbShiftReg_done ht hp ..)

theorem execThumbAsrReg_done (rs rd : LoReg) {s t : State} (ht : s.thumb = true) (hp : alignPc s.thumb s.pc = s.pc)
    (hx : execThumbAsrReg rs rd s = .next t) : Done s t :=
  next_done hx (thumbShiftReg_done ht hp ..)

theorem execThumbAdc_done (rs rd : LoReg) {s t : State} (ht : s.thumb = true) (hp : alignPc s.thumb s.pc = s.pc)
    (hx : execThumbAdc rs rd s = .next t) : Done s t :=
  next_done hx (thumbArithmetic_done ht hp (.refl s) rfl ..)

theorem execThumbSbc_done (rs rd : LoReg) {s t : State} (ht : s.thumb = true) (hp : alignPc s.thumb s.pc = s.pc)
    (hx : execThumbSbc rs rd s = .next t) : Done s t :=
  next_done hx (thumbArithmetic_done ht hp (.refl s) rfl ..)

theorem execThumbRorReg_done (rs rd : LoReg) {s t : State} (ht : s.thumb = true) (hp : alignPc s.thumb s.pc = s.pc)
    (hx : execThumbRorReg rs rd s = .next t) : Done s t :=
  next_done hx (thumbShiftReg_done ht hp ..)

theorem execThumbTst_done (rs rd : LoReg) {s t : State} (ht : s.thumb = true) (hp : alignPc s.thumb s.pc = s.pc)
    (hx : execThumbTst rs rd s = .next t) : Done s t :=
  next_done hx (thumbLogical_done ht hp (.refl s) rfl ..)

theorem execThumbNeg_done (rs rd : LoReg) {s t : State} (ht : s.thumb = true) (hp : alignPc s.thumb s.pc = s.pc)
    (hx : execThumbNeg rs rd s = .next t) : Done s t :=
  next_done hx (thumbArithmetic_done ht hp (.refl s) rfl ..)

theorem execThumbCmpReg_done (rs rd : LoReg) {s t : State} (ht : s.thumb = true) (hp : alignPc s.thumb s.pc = s.pc)
    (hx : execThumbCmpReg rs rd s = .next t) : Done s t :=
  next_done hx (thumbArithmetic_done ht hp (.refl s) rfl ..)

theorem execThumbCmn_done (rs rd : LoReg) {s t : State} (ht : s.thumb = true) (hp : alignPc s.thumb s.pc = s.pc)
    (hx : execThumbCmn rs rd s = .next t) : Done s t :=
  next_done hx (thumbArithmetic_done ht hp (.refl s) rfl ..)

theorem execThumbOrr_done (rs rd : LoReg) {s t : State} (ht : s.thumb = true) (hp : alignPc s.thumb s.pc = s.pc)
    (hx : execThumbOrr rs rd s = .next t) : Done s t :=
  next_done hx (thumbLogical_done ht hp (.refl s) rfl ..)

theorem execThumbMul_done (rs rd : LoReg) {s t : State} (ht : s.thumb = true) (hp : alignPc s.thumb s.pc = s.pc)
    (hx : execThumbMul rs rd s = .next t) : Done s t :=
  next_done hx (thumbLogical_done ht hp (before_charge ..) rfl ..)

theorem execThumbBic_done (rs rd : LoReg) {s t : State} (ht : s.thumb = true) (hp : alignPc s.thumb s.pc = s.pc)
    (hx : execThumbBic rs rd s = .next t) : Done s t :=
  next_done hx (thumbLogical_done ht hp (.refl s) rfl ..)

theorem execThumbMvn_done (rs rd : LoReg) {s t : State} (ht : s.thumb = true) (hp : alignPc s.thumb s.pc = s.pc)
    (hx : execThumbMvn rs rd s = .next t) : Done s t :=
  next_done hx (thumbLogical_done ht hp (.refl s) rfl ..)

theorem execThumbUndBlxReg_done (low : BitVec 7) {s t : State} (ht : s.thumb = true) (hp : alignPc s.thumb s.pc = s.pc)
    (hx : execThumbUndBlxReg low s = .next t) : Done s t :=
  next_done hx (illegal_done rfl s hp)

theorem execThumbAddHigh_done (rs rd : Reg) {s t : State} (ht : s.thumb = true) (hp : alignPc s.thumb s.pc = s.pc)
    (hx : execThumbAddHigh rs rd s = .next t) : Done s t :=
  next_done hx (writeThumb_done _ _ (before_logIf ..) ht hp)

theorem execThumbCmpHigh_done (rs rd : Reg) {s t : State} (ht : s.thumb = true) (hp : alignPc s.thumb s.pc = s.pc)
    (hx : execThumbCmpHigh rs rd s = .next t) : Done s t :=
  next_done hx (thumbArithmetic_done ht hp (before_logIf ..) (State.logIf_cpsr ..) ..)

theorem execThumbMovHigh_done (rs rd : Reg) {s t : State} (ht : s.thumb = true) (hp : alignPc s.thumb s.pc = s.pc)
    (hx : execThumbMovHigh rs rd s = .next t) : Done s t :=
  next_done hx (writeThumb_done _ _ (before_logIf ..) ht hp)

theorem execThumbBx_done (rs : Reg) {s t : State} (ht : s.thumb = true) (hp : alignPc s.thumb s.pc = s.pc)
    (hx : execThumbBx rs s = .next t) : Done s t :=
  next_done hx ((before_logIf ..).done (branchExchange_done ..))

theorem execThumbLdrPc_done (rd : LoReg) (imm8 : BitVec 8) {s t : State} (ht : s.thumb = true) (hp : alignPc s.thumb s.pc = s.pc)
    (hx : execThumbLdrPc rd imm8 s = .next t) : Done s t :=
  next_done hx (thumbLoad_done ht hp (memRead_looked .word) ..)

theorem execThumbStrhReg_done (ro rb rd : LoReg) {s t : State} (ht : s.thumb = true) (hp : alignPc s.thumb s.pc = s.pc)
    (hx : execThumbStrhReg ro rb rd s = .next t) : Done s t :=
  next_done hx (thumbStore_done ht hp storeHalf_onBus ..)

theorem execThumbLdsbReg_done (ro rb rd : LoReg) {s t : State} (ht : s.thumb = true) (hp : alignPc s.thumb s.pc = s.pc)
    (hx : execThumbLdsbReg ro rb rd s = .next t) : Done s t :=
  next_done hx (thumbLoad_done ht hp (loadSignedByte_looked) ..)

theorem execThumbLdrhReg_done (ro rb rd : LoReg) {s t : State} (ht : s.thumb = true) (hp : alignPc s.thumb s.pc = s.pc)
    (hx : execThumbLdrhReg ro rb rd s = .next t) : Done s t :=
  next_done hx (thumbLoad_done ht hp (loadHalf_looked) ..)

theorem execThumbLdshReg_done (ro rb rd : LoReg) {s t : State} (ht : s.thumb = true) (hp : alignPc s.thumb s.pc = s.pc)
    (hx : execThumbLdshReg ro rb rd s = .next t) : Done s t :=
  next_done hx (thumbLoad_done ht hp (loadSignedHalf_looked) ..)

theorem execThumbStrReg_done (ro rb rd : LoReg) {s t : State} (ht : s.thumb = true) (hp : alignPc s.thumb s.pc = s.pc)
    (hx : execThumbStrReg ro rb rd s = .next t) : Done s t :=
  next_done hx (thumbStore_done ht hp storeWord_onBus ..)

theorem execThumbStrbReg_done (ro rb rd : LoReg) {s t : State} (ht : s.thumb = true) (hp : alignPc s.thumb s.pc = s.pc)
    (hx : execThumbStrbReg ro rb rd s = .next t) : Done s t :=
  next_done hx (thumbStore_done ht hp storeByte_onBus ..)

theorem execThumbLdrReg_done (ro rb rd : LoReg) {s t : State} (ht : s.thumb = true) (hp : alignPc s.thumb s.pc = s.pc)
    (hx : execThumbLdrReg ro rb rd s = .next t) : Done s t :=
  next_done hx (thumbLoad_done ht hp (loadWord_looked) ..)

theorem execThumbLdrbReg_done (ro rb rd : LoReg) {s t : State} (ht : s.thumb = true) (hp : alignPc s.thumb s.pc = s.pc)
    (hx : execThumbLdrbReg ro rb rd s = .next t) : Done s t :=
  next_done hx (thumbLoad_done ht hp (loadByte_looked) ..)

theorem execThumbStrImm_done (imm5 : BitVec 5) (rb rd : LoReg) {s t : State} (ht : s.thumb = true) (hp : alignPc s.thumb s.pc = s.pc)
    (hx : execThumbStrImm imm5 rb rd s = .next t) : Done s t :=
  next_done hx (thumbStore_done ht hp storeWord_onBus ..)

theorem execThumbLdrImm_done (imm5 : BitVec 5) (rb rd : LoReg) {s t : State} (ht : s.thumb = true) (hp : alignPc s.thumb s.pc = s.pc)
    (hx : execThumbLdrImm imm5 rb rd s = .next t) : Done s t :=
  next_done hx (thumbLoad_done ht hp (loadWord_looked) ..)

theorem execThumbStrbImm_done (imm5 : BitVec 5) (rb rd : LoReg) {s t : State} (ht : s.thumb = true) (hp : alignPc s.thumb s.pc = s.pc)
    (hx : execThumbStrbImm imm5 rb rd s = .next t) : Done s t :=
  next_done hx (thumbStore_done ht hp storeByte_onBus ..)

theorem execThumbLdrbImm_done (imm5 : BitVec 5) (rb rd : LoReg) {s t : State} (ht : s.thumb = true) (hp : alignPc s.thumb s.pc = s.pc)
    (hx : execThumbLdrbImm imm5 rb rd s = .next t) : Done s t :=
  next_done hx (thumbLoad_done ht hp (loadByte_looked) ..)

theorem execThumbStrhImm_done (imm5 : BitVec 5) (rb rd : LoReg) {s t : State} (ht : s.thumb = true) (hp : alignPc s.thumb s.pc = s.pc)
    (hx : execThumbStrhImm imm5 rb rd s = .next t) : Done s t :=
  next_done hx (thumbStore_done ht hp storeHalf_onBus ..)

theorem execThumbLdrhImm_done (imm5 : BitVec 5) (rb rd : LoReg) {s t : State} (ht : s.thumb = true) (hp : alignPc s.thumb s.pc = s.pc)
    (hx : execThumbLdrhImm imm5 rb rd s = .next t) : Done s t :=
  next_done hx (thumbLoad_done ht hp (loadHalf_looked) ..)

theorem execThumbStrSp_done (rd : LoReg) (imm8 : BitVec 8) {s t : State} (ht : s.thumb = true) (hp : alignPc s.thumb s.pc = s.pc)
    (hx : execThumbStrSp rd imm8 s = .next t) : Done s t :=
  next_done hx (thumbStore_done ht hp storeWord_onBus ..)

theorem execThumbLdrSp_done (rd : LoReg) (imm8 : BitVec 8) {s t : State} (ht : s.thumb = true) (hp : alignPc s.thumb s.pc = s.pc)
    (hx : execThumbLdrSp rd imm8 s = .next t) : Done s t :=
  next_done hx (thumbLoad_done ht hp (loadWord_looked) ..)

theorem execThumbAddPc_done (rd : LoReg) (imm8 : BitVec 8) {s t : State} (ht : s.thumb = true) (hp : alignPc s.thumb s.pc = s.pc)
    (hx : execThumbAddPc rd imm8 s = .next t) : Done s t :=
  next_done hx (thumbSetLoReg_done ht hp ..)

theorem execThumbAddSp_done (rd : LoReg) (imm8 : BitVec 8) {s t : State} (ht : s.thumb = true) (hp : alignPc s.thumb s.pc = s.pc)
    (hx : execThumbAddSp rd imm8 s = .next t) : Done s t :=
  next_done hx (thumbSetLoReg_done ht hp ..)

theorem execThumbStmia_done (rb : LoReg) (rlist : BitVec 8) {s t : State} (ht : s.thumb = true) (hp : alignPc s.thumb s.pc = s.pc)
    (hx : execThumbStmia rb rlist s = .next t) : Done s t :=
  next_done hx (thumbStoreMultiple_done ht hp ..)

theorem execThumbLdmia_done (rb : LoReg) (rlist : BitVec 8) {s t : State} (ht : s.thumb = true) (hp : alignPc s.thumb s.pc = s.pc)
    (hx : execThumbLdmia rb rlist s = .next t) : Done s t :=
  next_done hx (thumbLoadMultiple_done ht hp ..)

theorem execThumbB_done (off11 : BitVec 11) {s t : State} (ht : s.thumb = true) (hp : alignPc s.thumb s.pc = s.pc)
    (hx : execThumbB off11 s = .next t) : Done s t :=
  next_done hx (writePc_done ..)

theorem execThumbUndBlxSuffix_done (low : BitVec 11) {s t : State} (ht : s.thumb = true) (hp : alignPc s.thumb s.pc = s.pc)
    (hx : execThumbUndBlxSuffix low s = .next t) : Done s t :=
  next_done hx (illegal_done rfl s hp)

theorem execThumbBlFirst_done (off11 : BitVec 11) {s t : State} (ht : s.thumb = true) (hp : alignPc s.thumb s.pc = s.pc)
    (hx : execThumbBlFirst off11 s = .next t) : Done s t :=
  next_done hx (thumbSetReg_done ht hp ..)

theorem execThumbBlSecond_done (off11 : BitVec 11) {s t : State} (ht : s.thumb = true) (hp : alignPc s.thumb s.pc = s.pc)
    (hx : execThumbBlSecond off11 s = .next t) : Done s t :=
  next_done hx (branchLink_done ..)

/-- Every instruction, run in the state of its own encoding. -/
theorem exec_done {i : Instr} {s t : State} (hcode : codeIsThumb (encode i) = s.thumb)
    (hpc : alignPc s.thumb s.pc = s.pc) (hexec : exec i s = .next t) : Done s t := by
  cases i with
  | armBx c rn => exact execArmBx_done c rn hcode.symm hpc hexec
  | armBkpt c imm12 imm4 => exact execArmBkpt_done c imm12 imm4 hcode.symm hpc hexec
  | armMul c sf rd rs rm => exact execArmMul_done c sf rd rs rm hcode.symm hpc hexec
  | armMla c sf rd rn rs rm => exact execArmMla_done c sf rd rn rs rm hcode.symm hpc hexec
  | armUmull c sf rdHi rdLo rs rm => exact execArmUmull_done c sf rdHi rdLo rs rm hcode.symm hpc hexec
  | armUmlal c sf rdHi rdLo rs rm => exact execArmUmlal_done c sf rdHi rdLo rs rm hcode.symm hpc hexec
  | armSmull c sf rdHi rdLo rs rm => exact execArmSmull_done c sf rdHi rdLo rs rm hcode.symm hpc hexec
  | armSmlal c sf rdHi rdLo rs rm => exact execArmSmlal_done c sf rdHi rdLo rs rm hcode.symm hpc hexec
  | armSwp c rn rd rm => exact execArmSwp_done c rn rd rm hcode.symm hpc hexec
  | armSwpb c rn rd rm => exact execArmSwpb_done c rn rd rm hcode.symm hpc hexec
  | armUndMulSwap c hi lo => exact execArmUndMulSwap_done c hi lo hcode.symm hpc hexec
  | armUndLdrdStrd c puiw mid h lo => exact execArmUndLdrdStrd_done c puiw mid h lo hcode.symm hpc hexec
  | armLdrh c ix up off rn rd => exact execArmLdrh_done c ix up off rn rd hcode.symm hpc hexec
  | armStrh c ix up off rn rd => exact execArmStrh_done c ix up off rn rd hcode.symm hpc hexec
  | armLdrsb c ix up off rn rd => exact execArmLdrsb_done c ix up off rn rd hcode.symm hpc hexec
  | armLdrsh c ix up off rn rd => exact execArmLdrsh_done c ix up off rn rd hcode.symm hpc hexec
  | armMrs c p rd => exact execArmMrs_done c p rd hcode.symm hpc hexec
  | armMrsBit25 c p rd => exact execArmMrsBit25_done c p rd hcode.symm hpc hexec
  | armMsrReg c p fsxc rm => exact execArmMsrReg_done c p fsxc rm hcode.symm hpc hexec
  | armMsrImm c p fsxc rot imm8 => exact execArmMsrImm_done c p fsxc rot imm8 hcode.symm hpc hexec
  | armAnd c sf rd rn op2 => exact execArmAnd_done c sf rd rn op2 hcode.symm hpc hexec
  | armEor c sf rd rn op2 => exact execArmEor_done c sf rd rn op2 hcode.symm hpc hexec
  | armSub c sf rd rn op2 => exact execArmSub_done c sf rd rn op2 hcode.symm hpc hexec
  | armRsb c sf rd rn op2 => exact execArmRsb_done c sf rd rn op2 hcode.symm hpc hexec
  | armAdd c sf rd rn op2 => exact execArmAdd_done c sf rd rn op2 hcode.symm hpc hexec
  | armAdc c sf rd rn op2 => exact execArmAdc_done c sf rd rn op2 hcode.symm hpc hexec
  | armSbc c sf rd rn op2 => exact execArmSbc_done c sf rd rn op2 hcode.symm hpc hexec
  | armRsc c sf rd rn op2 => exact execArmRsc_done c sf rd rn op2 hcode.symm hpc hexec
  | armTst c rn op2 => exact execArmTst_done c rn op2 hcode.symm hpc hexec
  | armTeq c rn op2 => exact execArmTeq_done c rn op2 hcode.symm hpc hexec
  | armCmp c rn op2 => exact execArmCmp_done c rn op2 hcode.symm hpc hexec
  | armCmn c rn op2 => exact execArmCmn_done c rn op2 hcode.symm hpc hexec
  | armOrr c sf rd rn op2 => exact execArmOrr_done c sf rd rn op2 hcode.symm hpc hexec
  | armMov c sf rd op2 => exact execArmMov_done c sf rd op2 hcode.symm hpc hexec
  | armBic c sf rd rn op2 => exact execArmBic_done c sf rd rn op2 hcode.symm hpc hexec
  | armMvn c sf rd op2 => exact execArmMvn_done c sf rd op2 hcode.symm hpc hexec
  | armUnd c hi lo => exact execArmUnd_done c hi lo hcode.symm hpc hexec
  | armLdrt c up off rn rd => exact execArmLdrt_done c up off rn rd hcode.symm hpc hexec
  | armLdrbt c up off rn rd => exact execArmLdrbt_done c up off rn rd hcode.symm hpc hexec
  | armStrt c up off rn rd => exact execArmStrt_done c up off rn rd hcode.symm hpc hexec
  | armStrbt c up off rn rd => exact execArmStrbt_done c up off rn rd hcode.symm hpc hexec
  | armLdr c ix up off rn rd => exact execArmLdr_done c ix up off rn rd hcode.symm hpc hexec
  | armStr c ix up off rn rd => exact execArmStr_done c ix up off rn rd hcode.symm hpc hexec
  | armLdrb c ix up off rn rd => exact execArmLdrb_done c ix up off rn rd hcode.symm hpc hexec
  | armStrb c ix up off rn rd => exact execArmStrb_done c ix up off rn rd hcode.symm hpc hexec
  | armLdm c mode sbit w rn list => exact execArmLdm_done c mode sbit w rn list hcode.symm hpc hexec
  | armStm c mode sbit w rn list => exact execArmStm_done c mode sbit w rn list hcode.symm hpc hexec
  | armB c off24 => exact execArmB_done c off24 hcode.symm hpc hexec
  | armBl c off24 => exact execArmBl_done c off24 hcode.symm hpc hexec
  | armLdc c punw rn crd cp off8 => exact execArmLdc_done c punw rn crd cp off8 hcode.symm hpc hexec
  | armStc c punw rn crd cp off8 => exact execArmStc_done c punw rn crd cp off8 hcode.symm hpc hexec
  | armCdp c opc1 crn crd cp opc2 crm => exact execArmCdp_done c opc1 crn crd cp opc2 crm hcode.symm hpc hexec
  | armMrc c opc1 crn rd cp opc2 crm => exact execArmMrc_done c opc1 crn rd cp opc2 crm hcode.symm hpc hexec
  | armMcr c opc1 crn rd cp opc2 crm => exact execArmMcr_done c opc1 crn rd cp opc2 crm hcode.symm hpc hexec
  | armSwi c comment => exact execArmSwi_done c comment hcode.symm hpc hexec
  | thumbSwi imm8 => exact execThumbSwi_done imm8 hcode.symm hpc hexec
  | thumbUndCond imm8 => exact execThumbUndCond_done imm8 hcode.symm hpc hexec
  | thumbBCond c soff8 => exact execThumbBCond_done c soff8 hcode.symm hpc hexec
  | thumbBkpt imm8 => exact execThumbBkpt_done imm8 hcode.symm hpc hexec
  | thumbAddSpImm imm7 => exact execThumbAddSpImm_done imm7 hcode.symm hpc hexec
  | thumbAddSpNegImm imm7 => exact execThumbAddSpNegImm_done imm7 hcode.symm hpc hexec
  | thumbPush r rlist => exact execThumbPush_done r rlist hcode.symm hpc hexec
  | thumbPop r rlist => exact execThumbPop_done r rlist hcode.symm hpc hexec
  | thumbUnd1011 low => exact execThumbUnd1011_done low hcode.symm hpc hexec
  | thumbAddReg rn rs rd => exact execThumbAddReg_done rn rs rd hcode.symm hpc hexec
  | thumbSubReg rn rs rd => exact execThumbSubReg_done rn rs rd hcode.symm hpc hexec
  | thumbAddImm3 imm3 rs rd => exact execThumbAddImm3_done imm3 rs rd hcode.symm hpc hexec
  | thumbSubImm3 imm3 rs rd => exact execThumbSubImm3_done imm3 rs rd hcode.symm hpc hexec
  | thumbLslImm imm5 rs rd => exact execThumbLslImm_done imm5 rs rd hcode.symm hpc hexec
  | thumbLsrImm imm5 rs rd => exact execThumbLsrImm_done imm5 rs rd hcode.symm hpc hexec
  | thumbAsrImm imm5 rs rd => exact execThumbAsrImm_done imm5 rs rd hcode.symm hpc hexec
  | thumbMovImm rd imm8 => exact execThumbMovImm_done rd imm8 hcode.symm hpc hexec
  | thumbCmpImm rd imm8 => exact execThumbCmpImm_done rd imm8 hcode.symm hpc hexec
  | thumbAddImm8 rd imm8 => exact execThumbAddImm8_done rd imm8 hcode.symm hpc hexec
  | thumbSubImm8 rd imm8 => exact execThumbSubImm8_done rd imm8 hcode.symm hpc hexec
  | thumbAnd rs rd => exact execThumbAnd_done rs rd hcode.symm hpc hexec
  | thumbEor rs rd => exact execThumbEor_done rs rd hcode.symm hpc hexec
  | thumbLslReg rs rd => exact execThumbLslReg_done rs rd hcode.symm hpc hexec
  | thumbLsrReg rs rd => exact execThumbLsrReg_done rs rd hcode.symm hpc hexec
  | thumbAsrReg rs rd => exact execThumbAsrReg_done rs rd hcode.symm hpc hexec
  | thumbAdc rs rd => exact execThumbAdc_done rs rd hcode.symm hpc hexec
  | thumbSbc rs rd => exact execThumbSbc_done rs rd hcode.symm hpc hexec
  | thumbRorReg rs rd => exact execThumbRorReg_done rs rd hcode.symm hpc hexec
  | thumbTst rs rd => exact execThumbTst_done rs rd hcode.symm hpc hexec
  | thumbNeg rs rd => exact execThumbNeg_done rs rd hcode.symm hpc hexec
  | thumbCmpReg rs rd => exact execThumbCmpReg_done rs rd hcode.symm hpc hexec
  | thumbCmn rs rd => exact execThumbCmn_done rs rd hcode.symm hpc hexec
  | thumbOrr rs rd => exact execThumbOrr_done rs rd hcode.symm hpc hexec
  | thumbMul rs rd => exact execThumbMul_done rs rd hcode.symm hpc hexec
  | thumbBic rs rd => exact execThumbBic_done rs rd hcode.symm hpc hexec
  | thumbMvn rs rd => exact execThumbMvn_done rs rd hcode.symm hpc hexec
  | thumbUndBlxReg low => exact execThumbUndBlxReg_done low hcode.symm hpc hexec
  | thumbAddHigh rs rd => exact execThumbAddHigh_done rs rd hcode.symm hpc hexec
  | thumbCmpHigh rs rd => exact execThumbCmpHigh_done rs rd hcode.symm hpc hexec
  | thumbMovHigh rs rd => exact execThumbMovHigh_done rs rd hcode.symm hpc hexec
  | thumbBx rs => exact execThumbBx_done rs hcode.symm hpc hexec
  | thumbLdrPc rd imm8 => exact execThumbLdrPc_done rd imm8 hcode.symm hpc hexec
  | thumbStrhReg ro rb rd => exact execThumbStrhReg_done ro rb rd hcode.symm hpc hexec
  | thumbLdsbReg ro rb rd => exact execThumbLdsbReg_done ro rb rd hcode.symm hpc hexec
  | thumbLdrhReg ro rb rd => exact execThumbLdrhReg_done ro rb rd hcode.symm hpc hexec
  | thumbLdshReg ro rb rd => exact execThumbLdshReg_done ro rb rd hcode.symm hpc hexec
  | thumbStrReg ro rb rd => exact execThumbStrReg_done ro rb rd hcode.symm hpc hexec
  | thumbStrbReg ro rb rd => exact execThumbStrbReg_done ro rb rd hcode.symm hpc hexec
  | thumbLdrReg ro rb rd => exact execThumbLdrReg_done ro rb rd hcode.symm hpc hexec
  | thumbLdrbReg ro rb rd => exact execThumbLdrbReg_done ro rb rd hcode.symm hpc hexec
  | thumbStrImm imm5 rb rd => exact execThumbStrImm_done imm5 rb rd hcode.symm hpc hexec
  | thumbLdrImm imm5 rb rd => exact execThumbLdrImm_done imm5 rb rd hcode.symm hpc hexec
  | thumbStrbImm imm5 rb rd => exact execThumbStrbImm_done imm5 rb rd hcode.symm hpc hexec
  | thumbLdrbImm imm5 rb rd => exact execThumbLdrbImm_done imm5 rb rd hcode.symm hpc hexec
  | thumbStrhImm imm5 rb rd => exact execThumbStrhImm_done imm5 rb rd hcode.symm hpc hexec
  | thumbLdrhImm imm5 rb rd => exact execThumbLdrhImm_done imm5 rb rd hcode.symm hpc hexec
  | thumbStrSp rd imm8 => exact execThumbStrSp_done rd imm8 hcode.symm hpc hexec
  | thumbLdrSp rd imm8 => exact execThumbLdrSp_done rd imm8 hcode.symm hpc hexec
  | thumbAddPc rd imm8 => exact execThumbAddPc_done rd imm8 hcode.symm hpc hexec
  | thumbAddSp rd imm8 => exact execThumbAddSp_done rd imm8 hcode.symm hpc hexec
  | thumbStmia rb rlist => exact execThumbStmia_done rb rlist hcode.symm hpc hexec
  | thumbLdmia rb rlist => exact execThumbLdmia_done rb rlist hcode.symm hpc hexec
  | thumbB off11 => exact execThumbB_done off11 hcode.symm hpc hexec
  | thumbUndBlxSuffix low => exact execThumbUndBlxSuffix_done low hcode.symm hpc hexec
  | thumbBlFirst off11 => exact execThumbBlFirst_done off11 hcode.symm hpc hexec
  | thumbBlSecond off11 => exact execThumbBlSecond_done off11 hcode.symm hpc hexec

end Sys2Proof.Machine
end

