-- ==== Sys2Proof/Laws/Numbers.lean ====
section
/-! SUPPORT. The model's bit operations as the numbers and words the statements use: alignment, rotation, flags and the
adder. -/

set_option Elab.async false

namespace Sys2Proof.Machine

theorem alignWord_toNat (p : Word) : (alignWord p).toNat = p.toNat / 4 * 4 := by
  have : alignWord p = (p >>> 2) <<< 2 := by
    apply BitVec.eq_of_getLsbD_eq
    intro i hi
    have mask : (0xFFFFFFFC#32).getLsbD i = decide (2 ≤ i) := by
      revert i
      decide
    rw [alignWord, BitVec.getLsbD_and, mask]
    simp only [BitVec.getLsbD_shiftLeft, BitVec.getLsbD_ushiftRight]
    by_cases h2 : i < 2
    · simp [h2]
    · simp [h2, hi, show 2 + (i - 2) = i by omega]
      omega
  rw [this, BitVec.toNat_shiftLeft, BitVec.toNat_ushiftRight, Nat.shiftRight_eq_div_pow, Nat.shiftLeft_eq]
  have := p.isLt
  omega

theorem alignHalf_toNat (p : Word) : (alignHalf p).toNat = p.toNat / 2 * 2 := by
  have : alignHalf p = (p >>> 1) <<< 1 := by
    apply BitVec.eq_of_getLsbD_eq
    intro i hi
    have mask : (0xFFFFFFFE#32).getLsbD i = decide (1 ≤ i) := by
      revert i
      decide
    rw [alignHalf, BitVec.getLsbD_and, mask]
    simp only [BitVec.getLsbD_shiftLeft, BitVec.getLsbD_ushiftRight]
    by_cases h2 : i < 1
    · simp [h2]
    · simp [h2, hi, show 1 + (i - 1) = i by omega]
      omega
  rw [this, BitVec.toNat_shiftLeft, BitVec.toNat_ushiftRight, Nat.shiftRight_eq_div_pow, Nat.shiftLeft_eq]
  have := p.isLt
  omega

theorem alignWord_eq (p : Word) : alignWord p = BitVec.ofNat 32 (p.toNat / 4 * 4) := by
  apply BitVec.eq_of_toNat_eq
  rw [alignWord_toNat, BitVec.toNat_ofNat]
  have := p.isLt
  omega

theorem alignHalf_eq (p : Word) : alignHalf p = BitVec.ofNat 32 (p.toNat / 2 * 2) := by
  apply BitVec.eq_of_toNat_eq
  rw [alignHalf_toNat, BitVec.toNat_ofNat]
  have := p.isLt
  omega

theorem ror32_eq (v : Word) {n : Nat} (h : n < 32) : ror32 v n = v.rotateRight n := by
  unfold ror32
  split
  · subst n; simp [BitVec.rotateRight, BitVec.rotateRightAux]
  · rw [BitVec.rotateRight, BitVec.rotateRightAux, Nat.mod_eq_of_lt h]

theorem putFlags_eq (w : Word) (n z c v : Bool) : putFlags w n z c v = flagsWord w n z c v := by
  have low : w.extractLsb' 0 28 = (w &&& 0x0FFFFFFF#32).extractLsb' 0 28 := by
    apply BitVec.eq_of_getLsbD_eq
    intro i hi
    have mask : ∀ i, i < 28 → (0x0FFFFFFF#32).getLsbD i = true := by decide
    simp [mask i hi]
  apply BitVec.eq_of_getLsbD_eq
  intro i hi
  unfold putFlags flagsWord
  simp only [BitVec.getLsbD_append, BitVec.getLsbD_or, BitVec.getLsbD_and, BitVec.getLsbD_extractLsb', BitVec.getLsbD_ofBool]
  have m0 : ∀ i, i < 32 → (0x0FFFFFFF#32).getLsbD i = decide (i < 28) := by decide
  have m1 : ∀ i, i < 32 → (0x80000000#32).getLsbD i = decide (i = 31) := by decide
  have m2 : ∀ i, i < 32 → (0x40000000#32).getLsbD i = decide (i = 30) := by decide
  have m3 : ∀ i, i < 32 → (0x20000000#32).getLsbD i = decide (i = 29) := by decide
  have m4 : ∀ i, i < 32 → (0x10000000#32).getLsbD i = decide (i = 28) := by decide
  have m5 : ∀ i, (0#32).getLsbD i = false := by simp
  simp only [apply_ite (fun w : Word => w.getLsbD i), m0 i hi, m1 i hi, m2 i hi, m3 i hi, m4 i hi, m5]
  by_cases h : i < 28
  · simp [h]; grind
  · have : i = 28 ∨ i = 29 ∨ i = 30 ∨ i = 31 := by omega
    rcases this with rfl | rfl | rfl | rfl <;> simp

theorem sign_eq (r : Word) : r.getLsbD 31 = decide (r.toInt < 0) := by
  rw [← BitVec.msb_eq_toInt]; rfl

theorem zero_eq (r : Word) : (r == 0) = decide (r.toNat = 0) := by
  rw [Bool.eq_iff_iff, beq_iff_eq, decide_eq_true_iff]
  constructor
  · rintro rfl; rfl
  · intro h; exact BitVec.eq_of_toNat_eq h


theorem addWithCarry_value (a b : Word) (cin : Bool) : (addWithCarry a b cin).value = a + b + BitVec.ofNat 32 cin.toNat := by
  apply BitVec.eq_of_toNat_eq
  simp only [addWithCarry, BitVec.toNat_ofNat, BitVec.toNat_add]
  have := Bool.toNat_le cin
  omega

theorem addWithCarry_overflow (a b : Word) (cin : Bool) :
    (addWithCarry a b cin).overflow = overflows (a.toInt + b.toInt + cin.toNat) := by
  have hv := addWithCarry_value a b cin
  have h : (addWithCarry a b cin).overflow = (a.getLsbD 31 == b.getLsbD 31 && (addWithCarry a b cin).value.getLsbD 31 != a.getLsbD 31) := rfl
  rw [h]
  have hu : ((addWithCarry a b cin).value).toNat = (a.toNat + b.toNat + cin.toNat) % 2^32 := by simp [addWithCarry]
  generalize (addWithCarry a b cin).value = r at *
  rw [sign_eq, sign_eq, sign_eq]
  have := Bool.toNat_le cin
  have ha := a.isLt
  have hb := b.isLt
  have hr := r.isLt
  unfold overflows
  rw [Bool.eq_iff_iff]
  simp only [BitVec.toInt_eq_toNat_cond, Bool.and_eq_true, beq_iff_eq, bne_iff_ne, ne_eq, Bool.or_eq_true, decide_eq_true_iff, decide_eq_decide]
  generalize cin.toNat = c at *
  split <;> split <;> split <;> omega

theorem addWithCarry_carry (a b : Word) (cin : Bool) : (addWithCarry a b cin).carry = decide (2 ^ 32 ≤ a.toNat + b.toNat + cin.toNat) := rfl

theorem addStatus_eq (w a b : Word) (cin : Bool) : arithmeticFlags w (addWithCarry a b cin) = addStatus w a b cin := by
  rw [arithmeticFlags, putFlags_eq, sign_eq, zero_eq, addWithCarry_overflow, addWithCarry_carry, addWithCarry_value]
  rfl

theorem bitStatus_eq (w r : Word) (c : Bool) : logicalFlags w r c = bitStatus w r c := by
  rw [logicalFlags, putFlags_eq, sign_eq, zero_eq]
  rfl

theorem subWithCarry_value (a b : Word) (cin : Bool) : (subWithCarry a b cin).value = a - b - BitVec.ofNat 32 (!cin).toNat := by
  rw [subWithCarry, addWithCarry_value]
  apply BitVec.eq_of_toNat_eq
  have := a.isLt
  have := b.isLt
  cases cin <;> simp only [BitVec.toNat_add, BitVec.toNat_sub, BitVec.toNat_not, BitVec.toNat_ofNat, Bool.not_true, Bool.not_false, Bool.toNat_true, Bool.toNat_false] <;> omega

theorem subStatus_eq (w a b : Word) (cin : Bool) : arithmeticFlags w (subWithCarry a b cin) = subStatus w a b (!cin) := by
  rw [arithmeticFlags, putFlags_eq, sign_eq, zero_eq, subWithCarry_value]
  have ha := a.isLt
  have hb := b.isLt
  have hc : (subWithCarry a b cin).carry = decide (b.toNat + (!cin).toNat ≤ a.toNat) := by
    rw [subWithCarry, addWithCarry_carry, BitVec.toNat_not]
    rw [decide_eq_decide]
    cases cin <;> simp <;> omega
  have hv : (subWithCarry a b cin).overflow = overflows (a.toInt - b.toInt - (!cin).toNat) := by
    have hn : (~~~b).toInt = -b.toInt - 1 := by
      rw [BitVec.toInt_eq_toNat_cond, BitVec.toInt_eq_toNat_cond, BitVec.toNat_not]
      split <;> split <;> omega
    rw [subWithCarry, addWithCarry_overflow, hn]
    congr 1
    cases cin <;> simp <;> omega
  rw [hc, hv]
  rfl

/-- The flags of a 32-bit product, as the rules' numbers (R172). -/
theorem nzFlags_eq (w r : Word) :
    nzFlags w r = flagsWord w (decide (r.toInt < 0)) (decide (r.toNat = 0)) (w.getLsbD 29) (w.getLsbD 28) := by
  unfold nzFlags
  rw [putFlags_eq, sign_eq, zero_eq]

/-- The flags of a 64-bit product, as the rules' numbers (R172). -/
theorem nzFlags64_eq (w : Word) (p : BitVec 64) :
    nzFlags64 w p = flagsWord w (decide (p.toInt < 0)) (decide (p.toNat = 0)) (w.getLsbD 29) (w.getLsbD 28) := by
  unfold nzFlags64
  rw [putFlags_eq]
  congr 1
  · rw [← BitVec.msb_eq_toInt, BitVec.msb_eq_getLsbD_last]
  · rw [Bool.eq_iff_iff, beq_iff_eq, decide_eq_true_eq, BitVec.toNat_eq]
    exact Iff.rfl

/-- The status word of a handler, as the rule's fields (R402). -/
theorem handlerStatus_eq (w : Word) (f : Bool) (m : Mode) : handlerStatus w f m = handlerWord w f (m.code.setWidth 32) := by
  apply BitVec.eq_of_getLsbD_eq
  intro i hi
  have m0 : ∀ i, i < 32 → (0xFFFFFF40#32).getLsbD i = decide (8 ≤ i ∨ i = 6) := by decide
  have m1 : ∀ i, i < 32 → (0x80#32).getLsbD i = decide (i = 7) := by decide
  have m2 : ∀ i, i < 32 → (0x40#32).getLsbD i = decide (i = 6) := by decide
  have m5 : ∀ i, (0#32).getLsbD i = false := fun _ => BitVec.getLsbD_zero
  unfold handlerStatus handlerWord
  simp only [BitVec.getLsbD_append, BitVec.getLsbD_or, BitVec.getLsbD_and, BitVec.getLsbD_extractLsb',
    BitVec.getLsbD_ofBool, apply_ite (fun w : Word => w.getLsbD i), m0 i hi, m1 i hi, m2 i hi, m5, BitVec.getLsbD_setWidth]
  by_cases h : i < 5
  · simp [h]
    grind
  · have hc : m.code.getLsbD i = false := BitVec.getLsbD_of_ge _ _ (by omega)
    by_cases h8 : 8 ≤ i
    · simp [h, hc, h8, show ¬ (i - 5 < 1) by omega, show ¬ (i - 5 - 1 < 1) by omega, show ¬ (i - 5 - 1 - 1 < 1) by omega,
        show 8 + (i - 5 - 1 - 1 - 1) = i by omega, show ¬ i = 7 by omega, show ¬ i = 6 by omega]
      omega
    · have : i = 5 ∨ i = 6 ∨ i = 7 := by omega
      rcases this with rfl | rfl | rfl <;> simp [hc]
      grind

/-! ### The shared ends of instructions -/

/-- A condition that passes leaves the instruction's own effect (R161). -/
theorem gated_pass {c : Cond} {f : State → State} {s : State} (h : condPassed s c = true) : gated c f s = .next (f s) := by
  simp only [gated, h, if_true]

/-- A condition that fails leaves the skip (R161). -/
theorem gated_fail {c : Cond} {f : State → State} {s : State} (h : condPassed s c = false) : gated c f s = .next (skip c s) := by
  simp only [gated, h, Bool.false_eq_true, if_false]

/-- A register other than r15 is written in its bank (R22). -/
theorem setReg_of_ne {rd : Reg} (h : rd ≠ 15) (v : Word) (s : State) : s.setReg rd v = s.withGpr (gprSlot rd s.mode) v := by
  simp only [State.setReg, State.setBankReg, h, if_false]

/-- The end of a data-processing instruction with a destination other than r15 (R190). -/
theorem finishDp_of_ne (sf : Bool) {rd : Reg} (h : rd ≠ 15) (r w : Word) (k : Nat) (s : State) :
    finishDp sf rd r w (s.charge k) = s.afterAlu (some rd) r (if sf then w else s.cpsr) 4 k := by
  unfold finishDp
  rw [if_neg h, setReg_of_ne h]
  cases sf <;> rfl

/-! ### The accounting of accesses -/

/-- One access is accounted in three fields only (R100). -/
theorem accessed_eq (s : State) (w : Width) (a : Word) :
    s.accessed w a = { s with seqNext := (s.accessed w a).seqNext, lastCost := (s.accessed w a).lastCost,
                              tally := (s.accessed w a).tally } := rfl

/-- The accounting leaves what every byte of memory reads as. -/
@[simp] theorem accessed_peekByte (s : State) (w : Width) (a b : Word) : peekByte (s.accessed w a) b = peekByte s b := rfl

@[simp] theorem accessed_params (s : State) (w : Width) (a : Word) : (s.accessed w a).params = s.params := rfl

@[simp] theorem accessedWords_nil (s : State) : s.accessedWords [] = s := rfl

@[simp] theorem accessedWords_cons (s : State) (a : Word) (l : List Word) :
    s.accessedWords (a :: l) = (s.accessed .word a).accessedWords l := rfl

theorem accessedWords_append (s : State) (l m : List Word) :
    s.accessedWords (l ++ m) = (s.accessedWords l).accessedWords m := by
  induction l generalizing s with
  | nil => rfl
  | cons a l ih => exact ih (s.accessed .word a)

/-- Any number of accesses is accounted in three fields only. -/
theorem accessedWords_eq (s : State) (l : List Word) :
    s.accessedWords l = { s with seqNext := (s.accessedWords l).seqNext, lastCost := (s.accessedWords l).lastCost,
                                 tally := (s.accessedWords l).tally } := by
  induction l generalizing s with
  | nil => rfl
  | cons a l ih =>
    have h := ih (s.accessed .word a)
    rw [accessedWords_cons, h]
    rfl

theorem accessedWords_peekByte (s : State) (l : List Word) (b : Word) :
    peekByte (s.accessedWords l) b = peekByte s b := by
  rw [accessedWords_eq]
  rfl

/-- A device with one figure per width charges it whatever the address and the kind of access (R101). -/
theorem extCost_fixed (waitcnt : Half) (c8 c16 c32 : Nat) (a : Word) (w : Width) (isWrite : Bool) :
    extCost waitcnt (Config.fixedCost c8 c16 c32) a w isWrite =
      match w with
      | .byte => c8
      | .half => c16
      | .word => c32 := by
  cases w <;> cases isWrite <;> rfl

/-- Backup storage charges one more than the wait value of WAITCNT's lowest field (R106). -/
theorem extCost_backup (waitcnt : Half) (a : Word) (w : Width) (isWrite : Bool) :
    extCost waitcnt Config.backupCost a w isWrite = 1 + firstWait (waitcnt.extractLsb' 0 2) := by
  cases w <;> cases isWrite <;> rfl

end Sys2Proof.Machine
end

