-- ==== Sys2Proof/Laws/PerInstr.lean ====
section
/-! SUPPORT. The round trip of the encoding, one lemma per instruction (family `Roundtrip` of LAWS.json). -/

set_option Elab.async false
set_option linter.unusedSimpArgs false
set_option linter.unusedVariables false

namespace Sys2Proof.Laws.Roundtrip

/-- Decoding an encoded well-formed instruction gives the instruction back, with every operand. -/
def Statement (i : Instr) : Prop := i.wf = true → decode (encode i) = i

theorem armBx (c : Cond) (rn : Reg) :
    Statement (.armBx c rn) := by
  intro hwf
  simp only [encode, armCode, decode, decodeArm, tag_bx, regAt]
  simp (disch := decide) only [ext_append_lo, ext_append_hi, bit_append_lo, bit_append_hi]
  simp [cond_code, kind_code, reg_bits, loReg_bits, bit_ofBool]

theorem armBkpt (c : Cond) (imm12 : BitVec 12) (imm4 : BitVec 4) :
    Statement (.armBkpt c imm12 imm4) := by
  intro hwf
  simp only [encode, armCode, decode, decodeArm, tag_bkpt]
  simp (disch := decide) only [ext_append_lo, ext_append_hi, bit_append_lo, bit_append_hi]
  simp [cond_code, kind_code, reg_bits, loReg_bits, bit_ofBool]

theorem armMul (c : Cond) (sf : Bool) (rd rs rm : Reg) :
    Statement (.armMul c sf rd rs rm) := by
  intro hwf
  simp only [encode, encodeMul, armCode, decode, decodeArm, tag_mul, decodeMultiply, regAt]
  simp (disch := decide) only [ext_append_lo, ext_append_hi, bit_append_lo, bit_append_hi]
  simp [cond_code, kind_code, reg_bits, loReg_bits, bit_ofBool]

theorem armMla (c : Cond) (sf : Bool) (rd rn rs rm : Reg) :
    Statement (.armMla c sf rd rn rs rm) := by
  intro hwf
  simp only [encode, encodeMul, armCode, decode, decodeArm, tag_mul, decodeMultiply, regAt]
  simp (disch := decide) only [ext_append_lo, ext_append_hi, bit_append_lo, bit_append_hi]
  simp [cond_code, kind_code, reg_bits, loReg_bits, bit_ofBool]

theorem armUmull (c : Cond) (sf : Bool) (rdHi rdLo rs rm : Reg) :
    Statement (.armUmull c sf rdHi rdLo rs rm) := by
  intro hwf
  simp only [encode, encodeMull, armCode, decode, decodeArm, tag_mull, decodeMultiplyLong, regAt]
  simp (disch := decide) only [ext_append_lo, ext_append_hi, bit_append_lo, bit_append_hi]
  simp [cond_code, kind_code, reg_bits, loReg_bits, bit_ofBool]

theorem armUmlal (c : Cond) (sf : Bool) (rdHi rdLo rs rm : Reg) :
    Statement (.armUmlal c sf rdHi rdLo rs rm) := by
  intro hwf
  simp only [encode, encodeMull, armCode, decode, decodeArm, tag_mull, decodeMultiplyLong, regAt]
  simp (disch := decide) only [ext_append_lo, ext_append_hi, bit_append_lo, bit_append_hi]
  simp [cond_code, kind_code, reg_bits, loReg_bits, bit_ofBool]

theorem armSmull (c : Cond) (sf : Bool) (rdHi rdLo rs rm : Reg) :
    Statement (.armSmull c sf rdHi rdLo rs rm) := by
  intro hwf
  simp only [encode, encodeMull, armCode, decode, decodeArm, tag_mull, decodeMultiplyLong, regAt]
  simp (disch := decide) only [ext_append_lo, ext_append_hi, bit_append_lo, bit_append_hi]
  simp [cond_code, kind_code, reg_bits, loReg_bits, bit_ofBool]

theorem armSmlal (c : Cond) (sf : Bool) (rdHi rdLo rs rm : Reg) :
    Statement (.armSmlal c sf rdHi rdLo rs rm) := by
  intro hwf
  simp only [encode, encodeMull, armCode, decode, decodeArm, tag_mull, decodeMultiplyLong, regAt]
  simp (disch := decide) only [ext_append_lo, ext_append_hi, bit_append_lo, bit_append_hi]
  simp [cond_code, kind_code, reg_bits, loReg_bits, bit_ofBool]

theorem armSwp (c : Cond) (rn rd rm : Reg) :
    Statement (.armSwp c rn rd rm) := by
  intro hwf
  simp only [encode, armCode, decode, decodeArm, tag_swp, decodeSwap, regAt]
  simp (disch := decide) only [ext_append_lo, ext_append_hi, bit_append_lo, bit_append_hi]
  simp [cond_code, kind_code, reg_bits, loReg_bits, bit_ofBool]

theorem armSwpb (c : Cond) (rn rd rm : Reg) :
    Statement (.armSwpb c rn rd rm) := by
  intro hwf
  simp only [encode, armCode, decode, decodeArm, tag_swpb, decodeSwap, regAt]
  simp (disch := decide) only [ext_append_lo, ext_append_hi, bit_append_lo, bit_append_hi]
  simp [cond_code, kind_code, reg_bits, loReg_bits, bit_ofBool]

theorem armUndLdrdStrd (c : Cond) (puiw : BitVec 4) (mid : BitVec 12) (h : Bool) (lo : BitVec 4) :
    Statement (.armUndLdrdStrd c puiw mid h lo) := by
  intro hwf
  simp only [encode, armCode, decode, decodeArm, tag_undLdrdStrd, decodeArmUndefined]
  simp (disch := decide) only [ext_append_lo, ext_append_hi, bit_append_lo, bit_append_hi]
  simp [cond_code, kind_code, reg_bits, loReg_bits, bit_ofBool]

theorem armLdrh (c : Cond) (ix : Index) (up : Bool) (off : HalfOffset) (rn rd : Reg) :
    Statement (.armLdrh c ix up off rn rd) := by
  intro hwf
  cases ix <;>
    (simp only [encode, encodeHalf, armCode, decode, decodeArm, Index.pBit, Index.wBit, tag_half_1_1, decodeHalfTransfer, offset_half, decodeIndex, regAt]
     simp (disch := decide) only [ext_append_lo, ext_append_hi, bit_append_lo, bit_append_hi]
     simp [cond_code, kind_code, reg_bits, loReg_bits, bit_ofBool])

theorem armStrh (c : Cond) (ix : Index) (up : Bool) (off : HalfOffset) (rn rd : Reg) :
    Statement (.armStrh c ix up off rn rd) := by
  intro hwf
  cases ix <;>
    (simp only [encode, encodeHalf, armCode, decode, decodeArm, Index.pBit, Index.wBit, tag_half_0_1, decodeHalfTransfer, offset_half, decodeIndex, regAt]
     simp (disch := decide) only [ext_append_lo, ext_append_hi, bit_append_lo, bit_append_hi]
     simp [cond_code, kind_code, reg_bits, loReg_bits, bit_ofBool])

theorem armLdrsb (c : Cond) (ix : Index) (up : Bool) (off : HalfOffset) (rn rd : Reg) :
    Statement (.armLdrsb c ix up off rn rd) := by
  intro hwf
  cases ix <;>
    (simp only [encode, encodeHalf, armCode, decode, decodeArm, Index.pBit, Index.wBit, tag_half_1_2, decodeHalfTransfer, offset_half, decodeIndex, regAt]
     simp (disch := decide) only [ext_append_lo, ext_append_hi, bit_append_lo, bit_append_hi]
     simp [cond_code, kind_code, reg_bits, loReg_bits, bit_ofBool])

theorem armLdrsh (c : Cond) (ix : Index) (up : Bool) (off : HalfOffset) (rn rd : Reg) :
    Statement (.armLdrsh c ix up off rn rd) := by
  intro hwf
  cases ix <;>
    (simp only [encode, encodeHalf, armCode, decode, decodeArm, Index.pBit, Index.wBit, tag_half_1_3, decodeHalfTransfer, offset_half, decodeIndex, regAt]
     simp (disch := decide) only [ext_append_lo, ext_append_hi, bit_append_lo, bit_append_hi]
     simp [cond_code, kind_code, reg_bits, loReg_bits, bit_ofBool])

theorem armMrs (c : Cond) (p : StatusWord) (rd : Reg) :
    Statement (.armMrs c p rd) := by
  intro hwf
  cases p <;>
    (simp only [encode, armCode, decode, decodeArm, StatusWord.bit, tag_mrs, decodeDataProcessing, decodeStatusTransfer, decodeStatusWord, regAt]
     simp (disch := decide) only [ext_append_lo, ext_append_hi, bit_append_lo, bit_append_hi]
     simp [cond_code, kind_code, reg_bits, loReg_bits, bit_ofBool])

theorem armMrsBit25 (c : Cond) (p : StatusWord) (rd : Reg) :
    Statement (.armMrsBit25 c p rd) := by
  intro hwf
  cases p <;>
    (simp only [encode, armCode, decode, decodeArm, StatusWord.bit, tag_mrs25, decodeDataProcessing, decodeStatusTransfer, decodeStatusWord, regAt]
     simp (disch := decide) only [ext_append_lo, ext_append_hi, bit_append_lo, bit_append_hi]
     simp [cond_code, kind_code, reg_bits, loReg_bits, bit_ofBool])

theorem armMsrReg (c : Cond) (p : StatusWord) (fsxc : BitVec 4) (rm : Reg) :
    Statement (.armMsrReg c p fsxc rm) := by
  intro hwf
  cases p <;>
    (simp only [encode, armCode, decode, decodeArm, StatusWord.bit, tag_msrReg, decodeDataProcessing, decodeStatusTransfer, decodeStatusWord, regAt]
     simp (disch := decide) only [ext_append_lo, ext_append_hi, bit_append_lo, bit_append_hi]
     simp [cond_code, kind_code, reg_bits, loReg_bits, bit_ofBool])

theorem armMsrImm (c : Cond) (p : StatusWord) (fsxc rot : BitVec 4) (imm8 : BitVec 8) :
    Statement (.armMsrImm c p fsxc rot imm8) := by
  intro hwf
  cases p <;>
    (simp only [encode, armCode, decode, decodeArm, StatusWord.bit, tag_msrImm, decodeDataProcessing, decodeStatusTransfer, decodeStatusWord, regAt]
     simp (disch := decide) only [ext_append_lo, ext_append_hi, bit_append_lo, bit_append_hi]
     simp [cond_code, kind_code, reg_bits, loReg_bits, bit_ofBool])

theorem armAnd (c : Cond) (sf : Bool) (rd rn : Reg) (op2 : Operand2) :
    Statement (.armAnd c sf rd rn op2) := by
  intro hwf
  simp only [encode, encodeDp, armCode, decode, decodeArm, tag_dp _ 0#4 _ _ _ _ (.inl rfl), decodeDataProcessing, operand2_dp, regAt]
  simp (disch := decide) only [ext_append_lo, ext_append_hi, bit_append_lo, bit_append_hi]
  simp [cond_code, kind_code, reg_bits, loReg_bits, bit_ofBool]

theorem armEor (c : Cond) (sf : Bool) (rd rn : Reg) (op2 : Operand2) :
    Statement (.armEor c sf rd rn op2) := by
  intro hwf
  simp only [encode, encodeDp, armCode, decode, decodeArm, tag_dp _ 1#4 _ _ _ _ (.inl rfl), decodeDataProcessing, operand2_dp, regAt]
  simp (disch := decide) only [ext_append_lo, ext_append_hi, bit_append_lo, bit_append_hi]
  simp [cond_code, kind_code, reg_bits, loReg_bits, bit_ofBool]

theorem armSub (c : Cond) (sf : Bool) (rd rn : Reg) (op2 : Operand2) :
    Statement (.armSub c sf rd rn op2) := by
  intro hwf
  simp only [encode, encodeDp, armCode, decode, decodeArm, tag_dp _ 2#4 _ _ _ _ (.inl rfl), decodeDataProcessing, operand2_dp, regAt]
  simp (disch := decide) only [ext_append_lo, ext_append_hi, bit_append_lo, bit_append_hi]
  simp [cond_code, kind_code, reg_bits, loReg_bits, bit_ofBool]

theorem armRsb (c : Cond) (sf : Bool) (rd rn : Reg) (op2 : Operand2) :
    Statement (.armRsb c sf rd rn op2) := by
  intro hwf
  simp only [encode, encodeDp, armCode, decode, decodeArm, tag_dp _ 3#4 _ _ _ _ (.inl rfl), decodeDataProcessing, operand2_dp, regAt]
  simp (disch := decide) only [ext_append_lo, ext_append_hi, bit_append_lo, bit_append_hi]
  simp [cond_code, kind_code, reg_bits, loReg_bits, bit_ofBool]

theorem armAdd (c : Cond) (sf : Bool) (rd rn : Reg) (op2 : Operand2) :
    Statement (.armAdd c sf rd rn op2) := by
  intro hwf
  simp only [encode, encodeDp, armCode, decode, decodeArm, tag_dp _ 4#4 _ _ _ _ (.inl rfl), decodeDataProcessing, operand2_dp, regAt]
  simp (disch := decide) only [ext_append_lo, ext_append_hi, bit_append_lo, bit_append_hi]
  simp [cond_code, kind_code, reg_bits, loReg_bits, bit_ofBool]

theorem armAdc (c : Cond) (sf : Bool) (rd rn : Reg) (op2 : Operand2) :
    Statement (.armAdc c sf rd rn op2) := by
  intro hwf
  simp only [encode, encodeDp, armCode, decode, decodeArm, tag_dp _ 5#4 _ _ _ _ (.inl rfl), decodeDataProcessing, operand2_dp, regAt]
  simp (disch := decide) only [ext_append_lo, ext_append_hi, bit_append_lo, bit_append_hi]
  simp [cond_code, kind_code, reg_bits, loReg_bits, bit_ofBool]

theorem armSbc (c : Cond) (sf : Bool) (rd rn : Reg) (op2 : Operand2) :
    Statement (.armSbc c sf rd rn op2) := by
  intro hwf
  simp only [encode, encodeDp, armCode, decode, decodeArm, tag_dp _ 6#4 _ _ _ _ (.inl rfl), decodeDataProcessing, operand2_dp, regAt]
  simp (disch := decide) only [ext_append_lo, ext_append_hi, bit_append_lo, bit_append_hi]
  simp [cond_code, kind_code, reg_bits, loReg_bits, bit_ofBool]

theorem armRsc (c : Cond) (sf : Bool) (rd rn : Reg) (op2 : Operand2) :
    Statement (.armRsc c sf rd rn op2) := by
  intro hwf
  simp only [encode, encodeDp, armCode, decode, decodeArm, tag_dp _ 7#4 _ _ _ _ (.inl rfl), decodeDataProcessing, operand2_dp, regAt]
  simp (disch := decide) only [ext_append_lo, ext_append_hi, bit_append_lo, bit_append_hi]
  simp [cond_code, kind_code, reg_bits, loReg_bits, bit_ofBool]

theorem armTst (c : Cond) (rn : Reg) (op2 : Operand2) :
    Statement (.armTst c rn op2) := by
  intro hwf
  simp only [encode, encodeDp, armCode, decode, decodeArm, tag_dp _ 8#4 true _ _ _ (.inr (.inr rfl)), decodeDataProcessing, operand2_dp, regAt]
  simp (disch := decide) only [ext_append_lo, ext_append_hi, bit_append_lo, bit_append_hi]
  simp [cond_code, kind_code, reg_bits, loReg_bits, bit_ofBool]

theorem armTeq (c : Cond) (rn : Reg) (op2 : Operand2) :
    Statement (.armTeq c rn op2) := by
  intro hwf
  simp only [encode, encodeDp, armCode, decode, decodeArm, tag_dp _ 9#4 true _ _ _ (.inr (.inr rfl)), decodeDataProcessing, operand2_dp, regAt]
  simp (disch := decide) only [ext_append_lo, ext_append_hi, bit_append_lo, bit_append_hi]
  simp [cond_code, kind_code, reg_bits, loReg_bits, bit_ofBool]

theorem armCmp (c : Cond) (rn : Reg) (op2 : Operand2) :
    Statement (.armCmp c rn op2) := by
  intro hwf
  simp only [encode, encodeDp, armCode, decode, decodeArm, tag_dp _ 10#4 true _ _ _ (.inr (.inr rfl)), decodeDataProcessing, operand2_dp, regAt]
  simp (disch := decide) only [ext_append_lo, ext_append_hi, bit_append_lo, bit_append_hi]
  simp [cond_code, kind_code, reg_bits, loReg_bits, bit_ofBool]

theorem armCmn (c : Cond) (rn : Reg) (op2 : Operand2) :
    Statement (.armCmn c rn op2) := by
  intro hwf
  simp only [encode, encodeDp, armCode, decode, decodeArm, tag_dp _ 11#4 true _ _ _ (.inr (.inr rfl)), decodeDataProcessing, operand2_dp, regAt]
  simp (disch := decide) only [ext_append_lo, ext_append_hi, bit_append_lo, bit_append_hi]
  simp [cond_code, kind_code, reg_bits, loReg_bits, bit_ofBool]

theorem armOrr (c : Cond) (sf : Bool) (rd rn : Reg) (op2 : Operand2) :
    Statement (.armOrr c sf rd rn op2) := by
  intro hwf
  simp only [encode, encodeDp, armCode, decode, decodeArm, tag_dp _ 12#4 _ _ _ _ (.inr (.inl rfl)), decodeDataProcessing, operand2_dp, regAt]
  simp (disch := decide) only [ext_append_lo, ext_append_hi, bit_append_lo, bit_append_hi]
  simp [cond_code, kind_code, reg_bits, loReg_bits, bit_ofBool]

theorem armMov (c : Cond) (sf : Bool) (rd : Reg) (op2 : Operand2) :
    Statement (.armMov c sf rd op2) := by
  intro hwf
  simp only [encode, encodeDp, armCode, decode, decodeArm, tag_dp _ 13#4 _ _ _ _ (.inr (.inl rfl)), decodeDataProcessing, operand2_dp, regAt]
  simp (disch := decide) only [ext_append_lo, ext_append_hi, bit_append_lo, bit_append_hi]
  simp [cond_code, kind_code, reg_bits, loReg_bits, bit_ofBool]

theorem armBic (c : Cond) (sf : Bool) (rd rn : Reg) (op2 : Operand2) :
    Statement (.armBic c sf rd rn op2) := by
  intro hwf
  simp only [encode, encodeDp, armCode, decode, decodeArm, tag_dp _ 14#4 _ _ _ _ (.inr (.inl rfl)), decodeDataProcessing, operand2_dp, regAt]
  simp (disch := decide) only [ext_append_lo, ext_append_hi, bit_append_lo, bit_append_hi]
  simp [cond_code, kind_code, reg_bits, loReg_bits, bit_ofBool]

theorem armMvn (c : Cond) (sf : Bool) (rd : Reg) (op2 : Operand2) :
    Statement (.armMvn c sf rd op2) := by
  intro hwf
  simp only [encode, encodeDp, armCode, decode, decodeArm, tag_dp _ 15#4 _ _ _ _ (.inr (.inl rfl)), decodeDataProcessing, operand2_dp, regAt]
  simp (disch := decide) only [ext_append_lo, ext_append_hi, bit_append_lo, bit_append_hi]
  simp [cond_code, kind_code, reg_bits, loReg_bits, bit_ofBool]

theorem armUnd (c : Cond) (hi : BitVec 20) (lo : BitVec 4) :
    Statement (.armUnd c hi lo) := by
  intro hwf
  simp only [encode, armCode, decode, decodeArm, tag_und, decodeArmUndefined]
  simp (disch := decide) only [ext_append_lo, ext_append_hi, bit_append_lo, bit_append_hi]
  simp [cond_code, kind_code, reg_bits, loReg_bits, bit_ofBool]

theorem armLdrt (c : Cond) (up : Bool) (off : WordOffset) (rn rd : Reg) :
    Statement (.armLdrt c up off rn rd) := by
  intro hwf
  simp only [encode, encodeSingle, armCode, decode, decodeArm, Index.pBit, Index.wBit, tag_single, decodeSingleTransfer, offset_single, decodeIndex, regAt]
  simp (disch := decide) only [ext_append_lo, ext_append_hi, bit_append_lo, bit_append_hi]
  simp [cond_code, kind_code, reg_bits, loReg_bits, bit_ofBool]

theorem armLdrbt (c : Cond) (up : Bool) (off : WordOffset) (rn rd : Reg) :
    Statement (.armLdrbt c up off rn rd) := by
  intro hwf
  simp only [encode, encodeSingle, armCode, decode, decodeArm, Index.pBit, Index.wBit, tag_single, decodeSingleTransfer, offset_single, decodeIndex, regAt]
  simp (disch := decide) only [ext_append_lo, ext_append_hi, bit_append_lo, bit_append_hi]
  simp [cond_code, kind_code, reg_bits, loReg_bits, bit_ofBool]

theorem armStrt (c : Cond) (up : Bool) (off : WordOffset) (rn rd : Reg) :
    Statement (.armStrt c up off rn rd) := by
  intro hwf
  simp only [encode, encodeSingle, armCode, decode, decodeArm, Index.pBit, Index.wBit, tag_single, decodeSingleTransfer, offset_single, decodeIndex, regAt]
  simp (disch := decide) only [ext_append_lo, ext_append_hi, bit_append_lo, bit_append_hi]
  simp [cond_code, kind_code, reg_bits, loReg_bits, bit_ofBool]

theorem armStrbt (c : Cond) (up : Bool) (off : WordOffset) (rn rd : Reg) :
    Statement (.armStrbt c up off rn rd) := by
  intro hwf
  simp only [encode, encodeSingle, armCode, decode, decodeArm, Index.pBit, Index.wBit, tag_single, decodeSingleTransfer, offset_single, decodeIndex, regAt]
  simp (disch := decide) only [ext_append_lo, ext_append_hi, bit_append_lo, bit_append_hi]
  simp [cond_code, kind_code, reg_bits, loReg_bits, bit_ofBool]

theorem armLdr (c : Cond) (ix : Index) (up : Bool) (off : WordOffset) (rn rd : Reg) :
    Statement (.armLdr c ix up off rn rd) := by
  intro hwf
  cases ix <;>
    (simp only [encode, encodeSingle, armCode, decode, decodeArm, Index.pBit, Index.wBit, tag_single, decodeSingleTransfer, offset_single, decodeIndex, regAt]
     simp (disch := decide) only [ext_append_lo, ext_append_hi, bit_append_lo, bit_append_hi]
     simp [cond_code, kind_code, reg_bits, loReg_bits, bit_ofBool])

theorem armStr (c : Cond) (ix : Index) (up : Bool) (off : WordOffset) (rn rd : Reg) :
    Statement (.armStr c ix up off rn rd) := by
  intro hwf
  cases ix <;>
    (simp only [encode, encodeSingle, armCode, decode, decodeArm, Index.pBit, Index.wBit, tag_single, decodeSingleTransfer, offset_single, decodeIndex, regAt]
     simp (disch := decide) only [ext_append_lo, ext_append_hi, bit_append_lo, bit_append_hi]
     simp [cond_code, kind_code, reg_bits, loReg_bits, bit_ofBool])

theorem armLdrb (c : Cond) (ix : Index) (up : Bool) (off : WordOffset) (rn rd : Reg) :
    Statement (.armLdrb c ix up off rn rd) := by
  intro hwf
  cases ix <;>
    (simp only [encode, encodeSingle, armCode, decode, decodeArm, Index.pBit, Index.wBit, tag_single, decodeSingleTransfer, offset_single, decodeIndex, regAt]
     simp (disch := decide) only [ext_append_lo, ext_append_hi, bit_append_lo, bit_append_hi]
     simp [cond_code, kind_code, reg_bits, loReg_bits, bit_ofBool])

theorem armStrb (c : Cond) (ix : Index) (up : Bool) (off : WordOffset) (rn rd : Reg) :
    Statement (.armStrb c ix up off rn rd) := by
  intro hwf
  cases ix <;>
    (simp only [encode, encodeSingle, armCode, decode, decodeArm, Index.pBit, Index.wBit, tag_single, decodeSingleTransfer, offset_single, decodeIndex, regAt]
     simp (disch := decide) only [ext_append_lo, ext_append_hi, bit_append_lo, bit_append_hi]
     simp [cond_code, kind_code, reg_bits, loReg_bits, bit_ofBool])

theorem armLdm (c : Cond) (mode : BlockMode) (sbit w : Bool) (rn : Reg) (list : BitVec 16) :
    Statement (.armLdm c mode sbit w rn list) := by
  intro hwf
  cases mode <;>
    (simp only [encode, encodeBlock, armCode, decode, decodeArm, BlockMode.puBits, tag_block, decodeBlockTransfer, decodeBlockMode, regAt]
     simp (disch := decide) only [ext_append_lo, ext_append_hi, bit_append_lo, bit_append_hi]
     simp [cond_code, kind_code, reg_bits, loReg_bits, bit_ofBool])

theorem armStm (c : Cond) (mode : BlockMode) (sbit w : Bool) (rn : Reg) (list : BitVec 16) :
    Statement (.armStm c mode sbit w rn list) := by
  intro hwf
  cases mode <;>
    (simp only [encode, encodeBlock, armCode, decode, decodeArm, BlockMode.puBits, tag_block, decodeBlockTransfer, decodeBlockMode, regAt]
     simp (disch := decide) only [ext_append_lo, ext_append_hi, bit_append_lo, bit_append_hi]
     simp [cond_code, kind_code, reg_bits, loReg_bits, bit_ofBool])

theorem armB (c : Cond) (off24 : BitVec 24) :
    Statement (.armB c off24) := by
  intro hwf
  simp only [encode, armCode, decode, decodeArm, tag_b]
  simp (disch := decide) only [ext_append_lo, ext_append_hi, bit_append_lo, bit_append_hi]
  simp [cond_code, kind_code, reg_bits, loReg_bits, bit_ofBool]

theorem armBl (c : Cond) (off24 : BitVec 24) :
    Statement (.armBl c off24) := by
  intro hwf
  simp only [encode, armCode, decode, decodeArm, tag_bl]
  simp (disch := decide) only [ext_append_lo, ext_append_hi, bit_append_lo, bit_append_hi]
  simp [cond_code, kind_code, reg_bits, loReg_bits, bit_ofBool]

theorem armLdc (c : Cond) (punw rn crd cp : BitVec 4) (off8 : BitVec 8) :
    Statement (.armLdc c punw rn crd cp off8) := by
  intro hwf
  simp only [encode, armCode, decode, decodeArm, tag_cdt, decodeCoprocTransfer]
  simp (disch := decide) only [ext_append_lo, ext_append_hi, bit_append_lo, bit_append_hi]
  simp [cond_code, kind_code, reg_bits, loReg_bits, bit_ofBool]

theorem armStc (c : Cond) (punw rn crd cp : BitVec 4) (off8 : BitVec 8) :
    Statement (.armStc c punw rn crd cp off8) := by
  intro hwf
  simp only [encode, armCode, decode, decodeArm, tag_cdt, decodeCoprocTransfer]
  simp (disch := decide) only [ext_append_lo, ext_append_hi, bit_append_lo, bit_append_hi]
  simp [cond_code, kind_code, reg_bits, loReg_bits, bit_ofBool]

theorem armCdp (c : Cond) (opc1 crn crd cp : BitVec 4) (opc2 : BitVec 3) (crm : BitVec 4) :
    Statement (.armCdp c opc1 crn crd cp opc2 crm) := by
  intro hwf
  simp only [encode, armCode, decode, decodeArm, tag_cdo]
  simp (disch := decide) only [ext_append_lo, ext_append_hi, bit_append_lo, bit_append_hi]
  simp [cond_code, kind_code, reg_bits, loReg_bits, bit_ofBool]

theorem armMrc (c : Cond) (opc1 : BitVec 3) (crn rd cp : BitVec 4) (opc2 : BitVec 3) (crm : BitVec 4) :
    Statement (.armMrc c opc1 crn rd cp opc2 crm) := by
  intro hwf
  simp only [encode, armCode, decode, decodeArm, tag_crt, decodeCoprocRegister]
  simp (disch := decide) only [ext_append_lo, ext_append_hi, bit_append_lo, bit_append_hi]
  simp [cond_code, kind_code, reg_bits, loReg_bits, bit_ofBool]

theorem armMcr (c : Cond) (opc1 : BitVec 3) (crn rd cp : BitVec 4) (opc2 : BitVec 3) (crm : BitVec 4) :
    Statement (.armMcr c opc1 crn rd cp opc2 crm) := by
  intro hwf
  simp only [encode, armCode, decode, decodeArm, tag_crt, decodeCoprocRegister]
  simp (disch := decide) only [ext_append_lo, ext_append_hi, bit_append_lo, bit_append_hi]
  simp [cond_code, kind_code, reg_bits, loReg_bits, bit_ofBool]

theorem armSwi (c : Cond) (comment : BitVec 24) :
    Statement (.armSwi c comment) := by
  intro hwf
  simp only [encode, armCode, decode, decodeArm, tag_swi]
  simp (disch := decide) only [ext_append_lo, ext_append_hi, bit_append_lo, bit_append_hi]
  simp [cond_code, kind_code, reg_bits, loReg_bits, bit_ofBool]

theorem thumbSwi (imm8 : BitVec 8) :
    Statement (.thumbSwi imm8) := by
  intro hwf
  simp only [encode, decode, decodeThumb, tag_f17]
  simp (disch := decide) only [ext_append_lo, ext_append_hi, bit_append_lo, bit_append_hi]
  simp [cond_code, kind_code, reg_bits, loReg_bits, bit_ofBool]

theorem thumbUndCond (imm8 : BitVec 8) :
    Statement (.thumbUndCond imm8) := by
  intro hwf
  simp only [encode, decode, decodeThumb, tag_undCond]
  simp (disch := decide) only [ext_append_lo, ext_append_hi, bit_append_lo, bit_append_hi]
  simp [cond_code, kind_code, reg_bits, loReg_bits, bit_ofBool]

theorem thumbBkpt (imm8 : BitVec 8) :
    Statement (.thumbBkpt imm8) := by
  intro hwf
  simp only [encode, decode, decodeThumb, tag_tbkpt]
  simp (disch := decide) only [ext_append_lo, ext_append_hi, bit_append_lo, bit_append_hi]
  simp [cond_code, kind_code, reg_bits, loReg_bits, bit_ofBool]

theorem thumbAddSpImm (imm7 : BitVec 7) :
    Statement (.thumbAddSpImm imm7) := by
  intro hwf
  simp only [encode, decode, decodeThumb, tag_f13_0]
  simp (disch := decide) only [ext_append_lo, ext_append_hi, bit_append_lo, bit_append_hi]
  simp [cond_code, kind_code, reg_bits, loReg_bits, bit_ofBool]

theorem thumbAddSpNegImm (imm7 : BitVec 7) :
    Statement (.thumbAddSpNegImm imm7) := by
  intro hwf
  simp only [encode, decode, decodeThumb, tag_f13_1]
  simp (disch := decide) only [ext_append_lo, ext_append_hi, bit_append_lo, bit_append_hi]
  simp [cond_code, kind_code, reg_bits, loReg_bits, bit_ofBool]

theorem thumbPush (r : Bool) (rlist : BitVec 8) :
    Statement (.thumbPush r rlist) := by
  intro hwf
  simp only [encode, decode, decodeThumb, tag_push]
  simp (disch := decide) only [ext_append_lo, ext_append_hi, bit_append_lo, bit_append_hi]
  simp [cond_code, kind_code, reg_bits, loReg_bits, bit_ofBool]

theorem thumbPop (r : Bool) (rlist : BitVec 8) :
    Statement (.thumbPop r rlist) := by
  intro hwf
  simp only [encode, decode, decodeThumb, tag_pop]
  simp (disch := decide) only [ext_append_lo, ext_append_hi, bit_append_lo, bit_append_hi]
  simp [cond_code, kind_code, reg_bits, loReg_bits, bit_ofBool]

theorem thumbAddReg (rn rs rd : LoReg) :
    Statement (.thumbAddReg rn rs rd) := by
  intro hwf
  simp only [encode, decode, decodeThumb, tag_f2_0, decodeFormat2, loRegAt]
  simp (disch := decide) only [ext_append_lo, ext_append_hi, bit_append_lo, bit_append_hi]
  simp [cond_code, kind_code, reg_bits, loReg_bits, bit_ofBool]

theorem thumbSubReg (rn rs rd : LoReg) :
    Statement (.thumbSubReg rn rs rd) := by
  intro hwf
  simp only [encode, decode, decodeThumb, tag_f2_1, decodeFormat2, loRegAt]
  simp (disch := decide) only [ext_append_lo, ext_append_hi, bit_append_lo, bit_append_hi]
  simp [cond_code, kind_code, reg_bits, loReg_bits, bit_ofBool]

theorem thumbAddImm3 (imm3 : BitVec 3) (rs rd : LoReg) :
    Statement (.thumbAddImm3 imm3 rs rd) := by
  intro hwf
  simp only [encode, decode, decodeThumb, tag_f2_2, decodeFormat2, loRegAt]
  simp (disch := decide) only [ext_append_lo, ext_append_hi, bit_append_lo, bit_append_hi]
  simp [cond_code, kind_code, reg_bits, loReg_bits, bit_ofBool]

theorem thumbSubImm3 (imm3 : BitVec 3) (rs rd : LoReg) :
    Statement (.thumbSubImm3 imm3 rs rd) := by
  intro hwf
  simp only [encode, decode, decodeThumb, tag_f2_3, decodeFormat2, loRegAt]
  simp (disch := decide) only [ext_append_lo, ext_append_hi, bit_append_lo, bit_append_hi]
  simp [cond_code, kind_code, reg_bits, loReg_bits, bit_ofBool]

theorem thumbLslImm (imm5 : BitVec 5) (rs rd : LoReg) :
    Statement (.thumbLslImm imm5 rs rd) := by
  intro hwf
  simp only [encode, encodeImm5, decode, decodeThumb, tag_imm5_0, decodeFormat1, loRegAt]
  simp (disch := decide) only [ext_append_lo, ext_append_hi, bit_append_lo, bit_append_hi]
  simp [cond_code, kind_code, reg_bits, loReg_bits, bit_ofBool]

theorem thumbLsrImm (imm5 : BitVec 5) (rs rd : LoReg) :
    Statement (.thumbLsrImm imm5 rs rd) := by
  intro hwf
  simp only [encode, encodeImm5, decode, decodeThumb, tag_imm5_1, decodeFormat1, loRegAt]
  simp (disch := decide) only [ext_append_lo, ext_append_hi, bit_append_lo, bit_append_hi]
  simp [cond_code, kind_code, reg_bits, loReg_bits, bit_ofBool]

theorem thumbAsrImm (imm5 : BitVec 5) (rs rd : LoReg) :
    Statement (.thumbAsrImm imm5 rs rd) := by
  intro hwf
  simp only [encode, encodeImm5, decode, decodeThumb, tag_imm5_2, decodeFormat1, loRegAt]
  simp (disch := decide) only [ext_append_lo, ext_append_hi, bit_append_lo, bit_append_hi]
  simp [cond_code, kind_code, reg_bits, loReg_bits, bit_ofBool]

theorem thumbMovImm (rd : LoReg) (imm8 : BitVec 8) :
    Statement (.thumbMovImm rd imm8) := by
  intro hwf
  simp only [encode, encodeImm8, decode, decodeThumb, tag_imm8_4, decodeFormat3, loRegAt]
  simp (disch := decide) only [ext_append_lo, ext_append_hi, bit_append_lo, bit_append_hi]
  simp [cond_code, kind_code, reg_bits, loReg_bits, bit_ofBool]

theorem thumbCmpImm (rd : LoReg) (imm8 : BitVec 8) :
    Statement (.thumbCmpImm rd imm8) := by
  intro hwf
  simp only [encode, encodeImm8, decode, decodeThumb, tag_imm8_5, decodeFormat3, loRegAt]
  simp (disch := decide) only [ext_append_lo, ext_append_hi, bit_append_lo, bit_append_hi]
  simp [cond_code, kind_code, reg_bits, loReg_bits, bit_ofBool]

theorem thumbAddImm8 (rd : LoReg) (imm8 : BitVec 8) :
    Statement (.thumbAddImm8 rd imm8) := by
  intro hwf
  simp only [encode, encodeImm8, decode, decodeThumb, tag_imm8_6, decodeFormat3, loRegAt]
  simp (disch := decide) only [ext_append_lo, ext_append_hi, bit_append_lo, bit_append_hi]
  simp [cond_code, kind_code, reg_bits, loReg_bits, bit_ofBool]

theorem thumbSubImm8 (rd : LoReg) (imm8 : BitVec 8) :
    Statement (.thumbSubImm8 rd imm8) := by
  intro hwf
  simp only [encode, encodeImm8, decode, decodeThumb, tag_imm8_7, decodeFormat3, loRegAt]
  simp (disch := decide) only [ext_append_lo, ext_append_hi, bit_append_lo, bit_append_hi]
  simp [cond_code, kind_code, reg_bits, loReg_bits, bit_ofBool]

theorem thumbAnd (rs rd : LoReg) :
    Statement (.thumbAnd rs rd) := by
  intro hwf
  simp only [encode, encodeFormat4, decode, decodeThumb, tag_f4, decodeFormat4, loRegAt]
  simp (disch := decide) only [ext_append_lo, ext_append_hi, bit_append_lo, bit_append_hi]
  simp [cond_code, kind_code, reg_bits, loReg_bits, bit_ofBool]

theorem thumbEor (rs rd : LoReg) :
    Statement (.thumbEor rs rd) := by
  intro hwf
  simp only [encode, encodeFormat4, decode, decodeThumb, tag_f4, decodeFormat4, loRegAt]
  simp (disch := decide) only [ext_append_lo, ext_append_hi, bit_append_lo, bit_append_hi]
  simp [cond_code, kind_code, reg_bits, loReg_bits, bit_ofBool]

theorem thumbLslReg (rs rd : LoReg) :
    Statement (.thumbLslReg rs rd) := by
  intro hwf
  simp only [encode, encodeFormat4, decode, decodeThumb, tag_f4, decodeFormat4, loRegAt]
  simp (disch := decide) only [ext_append_lo, ext_append_hi, bit_append_lo, bit_append_hi]
  simp [cond_code, kind_code, reg_bits, loReg_bits, bit_ofBool]

theorem thumbLsrReg (rs rd : LoReg) :
    Statement (.thumbLsrReg rs rd) := by
  intro hwf
  simp only [encode, encodeFormat4, decode, decodeThumb, tag_f4, decodeFormat4, loRegAt]
  simp (disch := decide) only [ext_append_lo, ext_append_hi, bit_append_lo, bit_append_hi]
  simp [cond_code, kind_code, reg_bits, loReg_bits, bit_ofBool]

theorem thumbAsrReg (rs rd : LoReg) :
    Statement (.thumbAsrReg rs rd) := by
  intro hwf
  simp only [encode, encodeFormat4, decode, decodeThumb, tag_f4, decodeFormat4, loRegAt]
  simp (disch := decide) only [ext_append_lo, ext_append_hi, bit_append_lo, bit_append_hi]
  simp [cond_code, kind_code, reg_bits, loReg_bits, bit_ofBool]

theorem thumbAdc (rs rd : LoReg) :
    Statement (.thumbAdc rs rd) := by
  intro hwf
  simp only [encode, encodeFormat4, decode, decodeThumb, tag_f4, decodeFormat4, loRegAt]
  simp (disch := decide) only [ext_append_lo, ext_append_hi, bit_append_lo, bit_append_hi]
  simp [cond_code, kind_code, reg_bits, loReg_bits, bit_ofBool]

theorem thumbSbc (rs rd : LoReg) :
    Statement (.thumbSbc rs rd) := by
  intro hwf
  simp only [encode, encodeFormat4, decode, decodeThumb, tag_f4, decodeFormat4, loRegAt]
  simp (disch := decide) only [ext_append_lo, ext_append_hi, bit_append_lo, bit_append_hi]
  simp [cond_code, kind_code, reg_bits, loReg_bits, bit_ofBool]

theorem thumbRorReg (rs rd : LoReg) :
    Statement (.thumbRorReg rs rd) := by
  intro hwf
  simp only [encode, encodeFormat4, decode, decodeThumb, tag_f4, decodeFormat4, loRegAt]
  simp (disch := decide) only [ext_append_lo, ext_append_hi, bit_append_lo, bit_append_hi]
  simp [cond_code, kind_code, reg_bits, loReg_bits, bit_ofBool]

theorem thumbTst (rs rd : LoReg) :
    Statement (.thumbTst rs rd) := by
  intro hwf
  simp only [encode, encodeFormat4, decode, decodeThumb, tag_f4, decodeFormat4, loRegAt]
  simp (disch := decide) only [ext_append_lo, ext_append_hi, bit_append_lo, bit_append_hi]
  simp [cond_code, kind_code, reg_bits, loReg_bits, bit_ofBool]

theorem thumbNeg (rs rd : LoReg) :
    Statement (.thumbNeg rs rd) := by
  intro hwf
  simp only [encode, encodeFormat4, decode, decodeThumb, tag_f4, decodeFormat4, loRegAt]
  simp (disch := decide) only [ext_append_lo, ext_append_hi, bit_append_lo, bit_append_hi]
  simp [cond_code, kind_code, reg_bits, loReg_bits, bit_ofBool]

theorem thumbCmpReg (rs rd : LoReg) :
    Statement (.thumbCmpReg rs rd) := by
  intro hwf
  simp only [encode, encodeFormat4, decode, decodeThumb, tag_f4, decodeFormat4, loRegAt]
  simp (disch := decide) only [ext_append_lo, ext_append_hi, bit_append_lo, bit_append_hi]
  simp [cond_code, kind_code, reg_bits, loReg_bits, bit_ofBool]

theorem thumbCmn (rs rd : LoReg) :
    Statement (.thumbCmn rs rd) := by
  intro hwf
  simp only [encode, encodeFormat4, decode, decodeThumb, tag_f4, decodeFormat4, loRegAt]
  simp (disch := decide) only [ext_append_lo, ext_append_hi, bit_append_lo, bit_append_hi]
  simp [cond_code, kind_code, reg_bits, loReg_bits, bit_ofBool]

theorem thumbOrr (rs rd : LoReg) :
    Statement (.thumbOrr rs rd) := by
  intro hwf
  simp only [encode, encodeFormat4, decode, decodeThumb, tag_f4, decodeFormat4, loRegAt]
  simp (disch := decide) only [ext_append_lo, ext_append_hi, bit_append_lo, bit_append_hi]
  simp [cond_code, kind_code, reg_bits, loReg_bits, bit_ofBool]

theorem thumbMul (rs rd : LoReg) :
    Statement (.thumbMul rs rd) := by
  intro hwf
  simp only [encode, encodeFormat4, decode, decodeThumb, tag_f4, decodeFormat4, loRegAt]
  simp (disch := decide) only [ext_append_lo, ext_append_hi, bit_append_lo, bit_append_hi]
  simp [cond_code, kind_code, reg_bits, loReg_bits, bit_ofBool]

theorem thumbBic (rs rd : LoReg) :
    Statement (.thumbBic rs rd) := by
  intro hwf
  simp only [encode, encodeFormat4, decode, decodeThumb, tag_f4, decodeFormat4, loRegAt]
  simp (disch := decide) only [ext_append_lo, ext_append_hi, bit_append_lo, bit_append_hi]
  simp [cond_code, kind_code, reg_bits, loReg_bits, bit_ofBool]

theorem thumbMvn (rs rd : LoReg) :
    Statement (.thumbMvn rs rd) := by
  intro hwf
  simp only [encode, encodeFormat4, decode, decodeThumb, tag_f4, decodeFormat4, loRegAt]
  simp (disch := decide) only [ext_append_lo, ext_append_hi, bit_append_lo, bit_append_hi]
  simp [cond_code, kind_code, reg_bits, loReg_bits, bit_ofBool]

theorem thumbUndBlxReg (low : BitVec 7) :
    Statement (.thumbUndBlxReg low) := by
  intro hwf
  simp only [encode, decode, decodeThumb, tag_blxReg]
  simp (disch := decide) only [ext_append_lo, ext_append_hi, bit_append_lo, bit_append_hi]
  simp [cond_code, kind_code, reg_bits, loReg_bits, bit_ofBool]

theorem thumbAddHigh (rs rd : Reg) :
    Statement (.thumbAddHigh rs rd) := by
  intro hwf
  simp only [encode, encodeFormat5, decode, decodeThumb, tag_f5_0, decodeFormat5, highRdAt, regAt]
  simp (disch := decide) only [ext_append_lo, ext_append_hi, bit_append_lo, bit_append_hi]
  simp [cond_code, kind_code, reg_bits, loReg_bits, bit_ofBool, joinReg]

theorem thumbCmpHigh (rs rd : Reg) :
    Statement (.thumbCmpHigh rs rd) := by
  intro hwf
  simp only [encode, encodeFormat5, decode, decodeThumb, tag_f5_1, decodeFormat5, highRdAt, regAt]
  simp (disch := decide) only [ext_append_lo, ext_append_hi, bit_append_lo, bit_append_hi]
  simp [cond_code, kind_code, reg_bits, loReg_bits, bit_ofBool, joinReg]

theorem thumbMovHigh (rs rd : Reg) :
    Statement (.thumbMovHigh rs rd) := by
  intro hwf
  simp only [encode, encodeFormat5, decode, decodeThumb, tag_f5_2, decodeFormat5, highRdAt, regAt]
  simp (disch := decide) only [ext_append_lo, ext_append_hi, bit_append_lo, bit_append_hi]
  simp [cond_code, kind_code, reg_bits, loReg_bits, bit_ofBool, joinReg]

theorem thumbBx (rs : Reg) :
    Statement (.thumbBx rs) := by
  intro hwf
  simp only [encode, decode, decodeThumb, tag_tbx, decodeFormat5, highRdAt, regAt]
  simp (disch := decide) only [ext_append_lo, ext_append_hi, bit_append_lo, bit_append_hi]
  simp [cond_code, kind_code, reg_bits, loReg_bits, bit_ofBool]

theorem thumbLdrPc (rd : LoReg) (imm8 : BitVec 8) :
    Statement (.thumbLdrPc rd imm8) := by
  intro hwf
  simp only [encode, encodeImm8, decode, decodeThumb, tag_imm8_9, loRegAt]
  simp (disch := decide) only [ext_append_lo, ext_append_hi, bit_append_lo, bit_append_hi]
  simp [cond_code, kind_code, reg_bits, loReg_bits, bit_ofBool]

theorem thumbStrhReg (ro rb rd : LoReg) :
    Statement (.thumbStrhReg ro rb rd) := by
  intro hwf
  simp only [encode, encodeFormat78, decode, decodeThumb, tag_f8, decodeFormat8, loRegAt]
  simp (disch := decide) only [ext_append_lo, ext_append_hi, bit_append_lo, bit_append_hi]
  simp [cond_code, kind_code, reg_bits, loReg_bits, bit_ofBool]

theorem thumbLdsbReg (ro rb rd : LoReg) :
    Statement (.thumbLdsbReg ro rb rd) := by
  intro hwf
  simp only [encode, encodeFormat78, decode, decodeThumb, tag_f8, decodeFormat8, loRegAt]
  simp (disch := decide) only [ext_append_lo, ext_append_hi, bit_append_lo, bit_append_hi]
  simp [cond_code, kind_code, reg_bits, loReg_bits, bit_ofBool]

theorem thumbLdrhReg (ro rb rd : LoReg) :
    Statement (.thumbLdrhReg ro rb rd) := by
  intro hwf
  simp only [encode, encodeFormat78, decode, decodeThumb, tag_f8, decodeFormat8, loRegAt]
  simp (disch := decide) only [ext_append_lo, ext_append_hi, bit_append_lo, bit_append_hi]
  simp [cond_code, kind_code, reg_bits, loReg_bits, bit_ofBool]

theorem thumbLdshReg (ro rb rd : LoReg) :
    Statement (.thumbLdshReg ro rb rd) := by
  intro hwf
  simp only [encode, encodeFormat78, decode, decodeThumb, tag_f8, decodeFormat8, loRegAt]
  simp (disch := decide) only [ext_append_lo, ext_append_hi, bit_append_lo, bit_append_hi]
  simp [cond_code, kind_code, reg_bits, loReg_bits, bit_ofBool]

theorem thumbStrReg (ro rb rd : LoReg) :
    Statement (.thumbStrReg ro rb rd) := by
  intro hwf
  simp only [encode, encodeFormat78, decode, decodeThumb, tag_f7, decodeFormat7, loRegAt]
  simp (disch := decide) only [ext_append_lo, ext_append_hi, bit_append_lo, bit_append_hi]
  simp [cond_code, kind_code, reg_bits, loReg_bits, bit_ofBool]

theorem thumbStrbReg (ro rb rd : LoReg) :
    Statement (.thumbStrbReg ro rb rd) := by
  intro hwf
  simp only [encode, encodeFormat78, decode, decodeThumb, tag_f7, decodeFormat7, loRegAt]
  simp (disch := decide) only [ext_append_lo, ext_append_hi, bit_append_lo, bit_append_hi]
  simp [cond_code, kind_code, reg_bits, loReg_bits, bit_ofBool]

theorem thumbLdrReg (ro rb rd : LoReg) :
    Statement (.thumbLdrReg ro rb rd) := by
  intro hwf
  simp only [encode, encodeFormat78, decode, decodeThumb, tag_f7, decodeFormat7, loRegAt]
  simp (disch := decide) only [ext_append_lo, ext_append_hi, bit_append_lo, bit_append_hi]
  simp [cond_code, kind_code, reg_bits, loReg_bits, bit_ofBool]

theorem thumbLdrbReg (ro rb rd : LoReg) :
    Statement (.thumbLdrbReg ro rb rd) := by
  intro hwf
  simp only [encode, encodeFormat78, decode, decodeThumb, tag_f7, decodeFormat7, loRegAt]
  simp (disch := decide) only [ext_append_lo, ext_append_hi, bit_append_lo, bit_append_hi]
  simp [cond_code, kind_code, reg_bits, loReg_bits, bit_ofBool]

theorem thumbStrImm (imm5 : BitVec 5) (rb rd : LoReg) :
    Statement (.thumbStrImm imm5 rb rd) := by
  intro hwf
  simp only [encode, encodeImm5, decode, decodeThumb, tag_imm5_12, decodeFormat9, loRegAt]
  simp (disch := decide) only [ext_append_lo, ext_append_hi, bit_append_lo, bit_append_hi]
  simp [cond_code, kind_code, reg_bits, loReg_bits, bit_ofBool]

theorem thumbLdrImm (imm5 : BitVec 5) (rb rd : LoReg) :
    Statement (.thumbLdrImm imm5 rb rd) := by
  intro hwf
  simp only [encode, encodeImm5, decode, decodeThumb, tag_imm5_13, decodeFormat9, loRegAt]
  simp (disch := decide) only [ext_append_lo, ext_append_hi, bit_append_lo, bit_append_hi]
  simp [cond_code, kind_code, reg_bits, loReg_bits, bit_ofBool]

theorem thumbStrbImm (imm5 : BitVec 5) (rb rd : LoReg) :
    Statement (.thumbStrbImm imm5 rb rd) := by
  intro hwf
  simp only [encode, encodeImm5, decode, decodeThumb, tag_imm5_14, decodeFormat9, loRegAt]
  simp (disch := decide) only [ext_append_lo, ext_append_hi, bit_append_lo, bit_append_hi]
  simp [cond_code, kind_code, reg_bits, loReg_bits, bit_ofBool]

theorem thumbLdrbImm (imm5 : BitVec 5) (rb rd : LoReg) :
    Statement (.thumbLdrbImm imm5 rb rd) := by
  intro hwf
  simp only [encode, encodeImm5, decode, decodeThumb, tag_imm5_15, decodeFormat9, loRegAt]
  simp (disch := decide) only [ext_append_lo, ext_append_hi, bit_append_lo, bit_append_hi]
  simp [cond_code, kind_code, reg_bits, loReg_bits, bit_ofBool]

theorem thumbStrhImm (imm5 : BitVec 5) (rb rd : LoReg) :
    Statement (.thumbStrhImm imm5 rb rd) := by
  intro hwf
  simp only [encode, encodeImm5, decode, decodeThumb, tag_imm5_16, loRegAt]
  simp (disch := decide) only [ext_append_lo, ext_append_hi, bit_append_lo, bit_append_hi]
  simp [cond_code, kind_code, reg_bits, loReg_bits, bit_ofBool]

theorem thumbLdrhImm (imm5 : BitVec 5) (rb rd : LoReg) :
    Statement (.thumbLdrhImm imm5 rb rd) := by
  intro hwf
  simp only [encode, encodeImm5, decode, decodeThumb, tag_imm5_17, loRegAt]
  simp (disch := decide) only [ext_append_lo, ext_append_hi, bit_append_lo, bit_append_hi]
  simp [cond_code, kind_code, reg_bits, loReg_bits, bit_ofBool]

theorem thumbStrSp (rd : LoReg) (imm8 : BitVec 8) :
    Statement (.thumbStrSp rd imm8) := by
  intro hwf
  simp only [encode, encodeImm8, decode, decodeThumb, tag_imm8_18, loRegAt]
  simp (disch := decide) only [ext_append_lo, ext_append_hi, bit_append_lo, bit_append_hi]
  simp [cond_code, kind_code, reg_bits, loReg_bits, bit_ofBool]

theorem thumbLdrSp (rd : LoReg) (imm8 : BitVec 8) :
    Statement (.thumbLdrSp rd imm8) := by
  intro hwf
  simp only [encode, encodeImm8, decode, decodeThumb, tag_imm8_19, loRegAt]
  simp (disch := decide) only [ext_append_lo, ext_append_hi, bit_append_lo, bit_append_hi]
  simp [cond_code, kind_code, reg_bits, loReg_bits, bit_ofBool]

theorem thumbAddPc (rd : LoReg) (imm8 : BitVec 8) :
    Statement (.thumbAddPc rd imm8) := by
  intro hwf
  simp only [encode, encodeImm8, decode, decodeThumb, tag_imm8_20, loRegAt]
  simp (disch := decide) only [ext_append_lo, ext_append_hi, bit_append_lo, bit_append_hi]
  simp [cond_code, kind_code, reg_bits, loReg_bits, bit_ofBool]

theorem thumbAddSp (rd : LoReg) (imm8 : BitVec 8) :
    Statement (.thumbAddSp rd imm8) := by
  intro hwf
  simp only [encode, encodeImm8, decode, decodeThumb, tag_imm8_21, loRegAt]
  simp (disch := decide) only [ext_append_lo, ext_append_hi, bit_append_lo, bit_append_hi]
  simp [cond_code, kind_code, reg_bits, loReg_bits, bit_ofBool]

theorem thumbStmia (rb : LoReg) (rlist : BitVec 8) :
    Statement (.thumbStmia rb rlist) := by
  intro hwf
  simp only [encode, encodeImm8, decode, decodeThumb, tag_imm8_24, loRegAt]
  simp (disch := decide) only [ext_append_lo, ext_append_hi, bit_append_lo, bit_append_hi]
  simp [cond_code, kind_code, reg_bits, loReg_bits, bit_ofBool]

theorem thumbLdmia (rb : LoReg) (rlist : BitVec 8) :
    Statement (.thumbLdmia rb rlist) := by
  intro hwf
  simp only [encode, encodeImm8, decode, decodeThumb, tag_imm8_25, loRegAt]
  simp (disch := decide) only [ext_append_lo, ext_append_hi, bit_append_lo, bit_append_hi]
  simp [cond_code, kind_code, reg_bits, loReg_bits, bit_ofBool]

theorem thumbB (off11 : BitVec 11) :
    Statement (.thumbB off11) := by
  intro hwf
  simp only [encode, decode, decodeThumb, tag_f18]
  simp (disch := decide) only [ext_append_lo, ext_append_hi, bit_append_lo, bit_append_hi]
  simp [cond_code, kind_code, reg_bits, loReg_bits, bit_ofBool]

theorem thumbUndBlxSuffix (low : BitVec 11) :
    Statement (.thumbUndBlxSuffix low) := by
  intro hwf
  simp only [encode, decode, decodeThumb, tag_blxSuffix]
  simp (disch := decide) only [ext_append_lo, ext_append_hi, bit_append_lo, bit_append_hi]
  simp [cond_code, kind_code, reg_bits, loReg_bits, bit_ofBool]

theorem thumbBlFirst (off11 : BitVec 11) :
    Statement (.thumbBlFirst off11) := by
  intro hwf
  simp only [encode, decode, decodeThumb, tag_blFirst]
  simp (disch := decide) only [ext_append_lo, ext_append_hi, bit_append_lo, bit_append_hi]
  simp [cond_code, kind_code, reg_bits, loReg_bits, bit_ofBool]

theorem thumbBlSecond (off11 : BitVec 11) :
    Statement (.thumbBlSecond off11) := by
  intro hwf
  simp only [encode, decode, decodeThumb, tag_blSecond]
  simp (disch := decide) only [ext_append_lo, ext_append_hi, bit_append_lo, bit_append_hi]
  simp [cond_code, kind_code, reg_bits, loReg_bits, bit_ofBool]

theorem thumbBCond (c : Cond) (soff8 : BitVec 8) : Statement (.thumbBCond c soff8) := by
  intro hwf
  simp only [encode, decode, decodeThumb, tag_bcond soff8 c hwf]
  simp (disch := decide) only [ext_append_lo, ext_append_hi]
  simp [cond_code]

theorem armUndMulSwap (c : Cond) (hi : BitVec 17) (lo : BitVec 4) : Statement (.armUndMulSwap c hi lo) := by
  intro hwf
  simp only [encode, armCode, decode, decodeArm, tag_undMulSwap c hi lo hwf, decodeArmUndefined]
  simp (disch := decide) only [ext_append_lo, ext_append_hi, bit_append_lo, bit_append_hi]
  simp [cond_code]

theorem thumbUnd1011 (low : BitVec 12) : Statement (.thumbUnd1011 low) := by
  intro hwf
  simp only [encode, decode, decodeThumb, tag_und1011 low hwf]
  simp (disch := decide) only [ext_append_lo, ext_append_hi, bit_append_lo, bit_append_hi]
  simp

end Sys2Proof.Laws.Roundtrip
end

