-- ==== Sys2Proof/Laws/Step.lean ====
section
/-! SUPPORT. The parts of a step beside the instruction: timers, the DMA unit, the fetch, the accounting, and what each
does to the invariant. -/

set_option Elab.async false

namespace Sys2Proof.Machine

/-! ### The invariant along the relations -/

theorem Done.inv {s t : State} (h : Done s t) (hs : s.Inv) : t.Inv where
  memories := h.ran.memories hs.memories
  registers := h.ran.registers hs.registers
  mode := h.ran.mode hs.mode
  pc := h.pc
  noDma hd := (h.ran.noDma (h.ran.params ▸ hd)).trans (hs.noDma (h.ran.params ▸ hd))
  fatal r hr := by
    rcases h.ran.fatal r hr with e | e
    · exact h.ran.params ▸ hs.fatal r e
    · exact h.ran.params ▸ e

theorem Before.inv {s t : State} (h : Before s t) (hs : s.Inv) : t.Inv :=
  Done.inv ⟨h.ran, by rw [h.pc, h.thumb]; exact hs.pc⟩ hs

theorem OnBus.inv {s t : State} (h : OnBus s t) (hs : s.Inv) : t.Inv := h.before.inv hs

/-- The fields the step alone writes do not matter to the invariant. -/
theorem inv_of_counters {s t : State}
    (h : t = { s with tally := t.tally, cyclesTotal := t.cyclesTotal, drawCount := t.drawCount, ir := t.ir,
                      lastIrq := t.lastIrq, halted := t.halted }) (hs : s.Inv) : t.Inv := by
  rw [h]
  obtain ⟨m, r, hm, hp, hn, hf⟩ := hs
  exact ⟨⟨m.1, m.2, m.3, m.4, m.5, m.6⟩, ⟨r.1, r.2, r.3, r.4, r.5, r.6, r.7⟩, hm, hp, hn, hf⟩

/-! ### Timers -/

theorem Timer.ok_counter {t : Timer} (h : t.ok = true) (c : Half) : ({ t with counter := c } : Timer).ok = true := h

theorem Timer.divisor_le (t : Timer) : t.divisor ≤ 1024 := by
  unfold Timer.divisor
  split <;> decide

theorem overflowTimer_onBus (k : Fin 4) (s : State) : OnBus s (overflowTimer k s) := by
  have count : OnBus s (s.withTimer k { s.timers[k] with counter := (s.timers[k]).reload }) :=
    ⟨rfl, ran_withTimer s k _ fun h => Timer.ok_counter h _⟩
  unfold overflowTimer
  simp only
  split
  · exact count.trans (raiseInterrupt_onBus ..)
  · exact count

theorem incrementFrom_onBus (ks : List (Fin 4)) (s : State) : OnBus s (incrementFrom ks s) := by
  induction ks generalizing s with
  | nil => exact .refl s
  | cons k rest ih =>
    simp only [incrementFrom]
    split
    · split
      · exact overflowTimer_onBus ..
      · split
        · exact (overflowTimer_onBus ..).trans (ih _)
        · exact overflowTimer_onBus ..
    · exact ⟨rfl, ran_withTimer s k _ fun h => Timer.ok_counter h _⟩

theorem tickChannel_onBus (k : Fin 4) (s : State) : OnBus s (tickChannel k s) := by
  simp only [tickChannel]
  split
  · split
    · exact OnBus.trans ⟨rfl, ran_withTimer s k { s.timers[k] with sub := 0 } fun h =>
        Timer.ok_iff.mpr ⟨(Timer.ok_iff.mp h).1, Nat.zero_lt_succ _⟩⟩ (incrementFrom_onBus ..)
    · rename_i hlt
      refine ⟨rfl, ran_withTimer s k _ fun h => Timer.ok_iff.mpr ⟨(Timer.ok_iff.mp h).1, ?_⟩⟩
      have := Timer.divisor_le s.timers[k]
      show (s.timers[k]).sub + 1 < 1024
      omega
  · exact .refl s

theorem timerTick_onBus (s : State) : OnBus s (timerTick s) :=
  (((tickChannel_onBus ..).trans (tickChannel_onBus ..)).trans (tickChannel_onBus ..)).trans (tickChannel_onBus ..)

/-- The timers (R453). -/
theorem timerAdvance_onBus (n : Nat) (s : State) : OnBus s (timerAdvance n s) := by
  induction n generalizing s with
  | zero => exact .refl s
  | succ n ih => exact (timerTick_onBus s).trans (ih _)

/-! ### DMA -/

theorem runningChannel_running {s : State} {x : Fin 4} (h : runningChannel s = some x) : (s.dma[x]).running = true := by
  have := List.find?_some h
  exact this

theorem cntH_disabled {c : Half} (h : c &&& 0xFFE0#16 = c) : (c &&& 0x7FFF#16) &&& 0xFFE0#16 = c &&& 0x7FFF#16 := by
  rw [BitVec.and_assoc, BitVec.and_comm 0x7FFF#16, ← BitVec.and_assoc, h]

theorem cntH_disabled_bit (c : Half) : (c &&& 0x7FFF#16).getLsbD 15 = false := by
  rw [BitVec.getLsbD_and, show (0x7FFF#16).getLsbD 15 = false from rfl, Bool.and_false]

/-- A channel that completes is legal again, whatever its count (R468). -/
theorem DmaChannel.ok_completed {c : DmaChannel} (x : Fin 4) (hc : c.cntH &&& 0xFFE0#16 = c.cntH)
    (hb : c.cntLatch ≤ 0x10000) : (c.completed x).ok = true := by
  unfold DmaChannel.completed
  split
  · exact DmaChannel.ok_iff.mpr ⟨hc, (DmaChannel.count_bounds x c).2, fun _ => (DmaChannel.count_bounds x c).1⟩
  · refine DmaChannel.ok_iff.mpr ⟨cntH_disabled hc, hb, ?_⟩
    rintro (h | h)
    · cases h
    · exact absurd ((cntH_disabled_bit c.cntH).symm.trans h) (by decide)

theorem dma_set_self (s : State) (x : Fin 4) (c : DmaChannel) : (s.withDma x c).dma[x] = c := by
  simp [State.withDma]

/-- Two writes of one channel are the second. -/
theorem withDma_withDma (s : State) (x : Fin 4) (c d : DmaChannel) : (s.withDma x c).withDma x d = s.withDma x d := by
  simp [State.withDma, Vector.set_set]

/-- The end of a unit. -/
theorem dmaAdvance_onBus (u : Nat) (x : Fin 4) (s : State) (hp : s.params.dmaPresent = true) :
    OnBus s (dmaAdvance u x s) := by
  have moved : ∀ c : DmaChannel, ((s.dma[x]).ok = true → c.ok = true) → OnBus s (s.withDma x c) := fun c h =>
    ⟨rfl, ran_withDma s x c hp h⟩
  simp only [dmaAdvance, dma_set_self]
  split
  · have last : ∀ c : DmaChannel, ((s.dma[x]).ok = true → c.ok = true) →
        OnBus s ((raiseInterrupt (8 + x.val) s).withDma x c) := fun c h =>
      (raiseInterrupt_onBus ..).trans ⟨rfl, ran_withDma _ x c (by rw [(raiseInterrupt_onBus ..).params]; exact hp) (by
        have : (raiseInterrupt (8 + x.val) s).dma = s.dma := by unfold raiseInterrupt; split <;> rfl
        rw [this]
        exact h)⟩
    have legal : (s.dma[x]).ok = true → ((dmaStep u s.dma[x]).completed x).ok = true := fun h =>
      DmaChannel.ok_completed x (DmaChannel.ok_iff.mp h).1 (by
        have := (DmaChannel.ok_iff.mp h).2.1
        show (s.dma[x]).cntLatch - 1 ≤ 0x10000
        omega)
    simp only [dmaComplete, dma_set_self]
    split
    · have : (raiseInterrupt (8 + x.val) (s.withDma x (dmaStep u s.dma[x]))).withDma x ((dmaStep u s.dma[x]).completed x) =
          (raiseInterrupt (8 + x.val) s).withDma x ((dmaStep u s.dma[x]).completed x) := by
        unfold raiseInterrupt
        split
        · simp [State.withDma, State.withIflag, Vector.set_set]
        · exact withDma_withDma ..
      rw [this]
      exact last _ legal
    · rw [withDma_withDma]
      exact moved _ legal
  · rename_i hne
    refine moved _ fun h => DmaChannel.ok_iff.mpr ⟨(DmaChannel.ok_iff.mp h).1, ?_, fun _ => Nat.pos_of_ne_zero hne⟩
    have := (DmaChannel.ok_iff.mp h).2.1
    show (s.dma[x]).cntLatch - 1 ≤ 0x10000
    omega

/-- One DMA unit (R467). -/
theorem dmaUnit_onBus (x : Fin 4) (s : State) (hp : s.params.dmaPresent = true) : OnBus s (dmaUnit x s) := by
  have moved := fun w a v w' a' => (memRead_looked w a s).onBus.trans (memWrite_onBus w' a' v (memRead w a s).2)
  simp only [dmaUnit]
  exact (moved ..).trans (dmaAdvance_onBus _ _ _ (by rw [(moved ..).params]; exact hp))

/-- `DmaTick` (R467) of an eligible machine. -/
theorem dmaTick_onBus {s : State} (h : dmaEligible s = true) : OnBus s (dmaTick s) := by
  have hp : s.params.dmaPresent = true := by
    unfold dmaEligible at h
    exact (Bool.and_eq_true_iff.mp h).1
  unfold dmaTick
  split
  · exact dmaUnit_onBus _ _ hp
  · exact .refl s

/-- A start event (R464): a channel it starts has units left. -/
theorem dmaStart_onBus (timing : Nat) (x : Fin 4) (s : State) (hp : s.params.dmaPresent = true) :
    OnBus s (dmaStart timing x s) := by
  simp only [dmaStart]
  split
  · rename_i hc
    simp only [Bool.and_eq_true] at hc
    refine ⟨rfl, ran_withDma s x _ hp fun h => DmaChannel.ok_iff.mpr ⟨(DmaChannel.ok_iff.mp h).1,
      (DmaChannel.ok_iff.mp h).2.1, fun _ => (DmaChannel.ok_iff.mp h).2.2 (.inr hc.1.1)⟩⟩
  · exact .refl s

/-! ### The step -/

/-- The accounting at the end of a step. -/
theorem accountStep_inv {s : State} (hs : s.Inv) : (accountStep s).Inv := by
  refine OnBus.inv (timerAdvance_onBus ..) (inv_of_counters ?_ hs)
  unfold countDraw
  split <;> rfl

theorem finishStep_inv {s : State} (hs : s.Inv) : (finishStep s).Inv := by
  unfold finishStep
  split
  · exact inv_of_counters rfl hs
  · exact accountStep_inv hs

theorem takeIrq_inv {s : State} (hs : s.Inv) : (takeIrq s).Inv :=
  Done.inv (enterException_done (by decide) _) (inv_of_counters (s := s) rfl hs)

theorem fetch_looked (s : State) : Looked s (fetch s).2 := memRead_looked ..

/-- A reset keeps the images and the log and gives every other field its reset value (R470). -/
theorem resetMachine_inv {s : State} (hs : s.Inv) : (resetMachine s).Inv where
  memories := ⟨hs.memories.bios, rfl, rfl, hs.memories.rom, rfl, hs.memories.romSize⟩
  registers := ⟨show (0 : Half) &&& _ = 0 by decide, show (0 : Half) &&& _ = 0 by decide,
    show (0 : Half) &&& _ = 0 by decide, show (0 : Word) &&& _ = 0 by decide, show (0 : Byte) &&& _ = 0 by decide,
    show ∀ k : Fin 4, ((Vector.replicate 4 Timer.initial)[k]).ok = true by decide,
    show ∀ x : Fin 4, ((Vector.replicate 4 DmaChannel.initial)[x]).ok = true by decide⟩
  mode := show validMode ((0x000000D3#32).extractLsb' 0 5) = true by decide
  pc := show alignPc ((0x000000D3#32).getLsbD 5) 0x00000000#32 = 0x00000000#32 by decide
  noDma _ := rfl
  fatal _ h := nomatch h

end Sys2Proof.Machine
end

