-- ==== Sys2Proof/Tests/Slice0.lean ====
section
/-! SUPPORT. The model's own tests: ill-formed terms refused, a word of every constructor written out bit by bit from
the encoding its rule gives, one step of most instructions with the results of `95_test_vectors.md` (the row's number
stands before each), and for every statement with hypotheses a state and operands that meet them. -/

set_option Elab.async false

open Sys2Proof Sys2Proof.Machine

namespace Sys2Proof.Tests

/-- The state a step answers. -/
def after (o : Host.Outcome State Fault Refusal) : State :=
  match o with
  | .next t => t
  | .fault _ => State.reset
  | .refused _ => State.reset

/-- A word in a memory, low byte first. -/
def putWord (m : Memory) (a : Nat) (w : Word) : Memory := m.setBytes (fun i => a % 0x8000 + i) (fun i => byteOf w i) 4

/-- The start state of the rows: status word, registers by their place, saved words by theirs, words of IWRAM. -/
def start (cpsr : Word) (regs : List (Fin 30 × Word)) (saved : List (Fin 5 × Word)) (ram : List (Nat × Word)) : State :=
  let s := State.reset
  { s with
    params := { s.params with sentinel8 := 0xAA, romSize := 0x400 }
    pc := 0x08000000
    cpsr := cpsr
    gpr := regs.foldl (fun g r => g.set r.1 r.2) s.gpr
    spsr := saved.foldl (fun g r => g.set r.1 r.2) s.spsr
    spsrValid := saved.foldl (fun g r => g.set r.1 true) s.spsrValid
    iwram := ram.foldl (fun m c => putWord m c.1 c.2) [] }

/-- The start state and the state after the step that runs a word. -/
def run (nbits w : Nat) (cpsr : Word) (regs : List (Fin 30 × Word)) (saved : List (Fin 5 × Word))
    (ram : List (Nat × Word)) : State × State :=
  (start cpsr regs saved ram, after (step ((start cpsr regs saved ram).withFetchWord nbits w)))

/-- The step ended with these values of `pc`, the status word, the count and the registers and IWRAM words that the row
says changed, every other register and byte of IWRAM as before. -/
def sees (r : State × State) (pc cpsr : Word) (cycles : Nat) (regs : List (Fin 30 × Word)) (ram : List (Nat × Word)) :
    Bool :=
  r.2.pc == pc && r.2.cpsr == cpsr && r.2.tally == cycles && r.2.gpr == regs.foldl (fun g c => g.set c.1 c.2) r.1.gpr &&
    r.2.iwram == ram.foldl (fun m c => putWord m c.1 c.2) r.1.iwram

/-! ### WellFormed -/

/-- The words of entries A3 (bits 24:22 = 000), A4 (bits 24:23 = 01) and A5 (swap) are no words of entry A6. -/
theorem test_wf_undMulSwap :
    (Instr.armUndMulSwap .al 0b000_1_1_0000_0000_0000_00#17 0).wf = false ∧
    (Instr.armUndMulSwap .al 0b01_0_0_0_0000_0000_0000#17 0).wf = false ∧
    (Instr.armUndMulSwap .al 0b10_0_00_0000_0000_0000#17 0).wf = false ∧
    (Instr.armUndMulSwap .al 0b001_00_0000_0000_0000#17 0).wf = true ∧
    (Instr.armUndMulSwap .al 0b10_0_00_0000_0000_0001#17 0).wf = true := by decide

/-- Format 16 has the condition codes 0 to 13 only. -/
theorem test_wf_bCond :
    (Instr.thumbBCond .al 0).wf = false ∧ (Instr.thumbBCond .nv 0).wf = false ∧ (Instr.thumbBCond .le 0).wf = true := by
  decide

/-- The halfwords of BKPT, ADD SP, PUSH and POP are not unallocated. -/
theorem test_wf_und1011 :
    (Instr.thumbUnd1011 0b1110_0000_0000#12).wf = false ∧ (Instr.thumbUnd1011 0b0000_0000_0000#12).wf = false ∧
    (Instr.thumbUnd1011 0b0100_0000_0000#12).wf = false ∧ (Instr.thumbUnd1011 0b1101_0000_0000#12).wf = false ∧
    (Instr.thumbUnd1011 0b1111_0000_0000#12).wf = true := by decide

/-! ### Decoding: a word of every constructor -/

/-- Data processing, `cccc 00 I oooo S nnnn dddd` and an operand (R125, R190 to R206). -/
theorem test_decode_data_processing :
    decodeArm 0b1110_00_0_0000_1_0001_0010_00011_01_0_0100 = .armAnd .al true 2 1 (.regImm 4 .lsr 3) ∧
    decodeArm 0b0000_00_0_0001_0_0001_0010_0101_0_10_1_0100 = .armEor .eq false 2 1 (.regReg 4 .asr 5) ∧
    decodeArm 0b1110_00_1_0010_1_0001_0010_1111_00000001 = .armSub .al true 2 1 (.imm 15 1) ∧
    decodeArm 0b0001_00_1_0011_0_0001_0010_0000_11111111 = .armRsb .ne false 2 1 (.imm 0 255) ∧
    decodeArm 0b1110_00_0_0100_0_0001_0000_00000_00_0_0010 = .armAdd .al false 0 1 (.regImm 2 .lsl 0) ∧
    decodeArm 0b0010_00_0_0101_0_0001_0000_00000_11_0_0010 = .armAdc .cs false 0 1 (.regImm 2 .ror 0) ∧
    decodeArm 0b0011_00_0_0110_1_1110_1101_00000_00_0_1100 = .armSbc .cc true 13 14 (.regImm 12 .lsl 0) ∧
    decodeArm 0b0100_00_0_0111_1_0001_0000_0011_0_11_1_0010 = .armRsc .mi true 0 1 (.regReg 2 .ror 3) ∧
    decodeArm 0b0101_00_0_1000_1_0001_0000_00000_00_0_0010 = .armTst .pl 1 (.regImm 2 .lsl 0) ∧
    decodeArm 0b0110_00_0_1001_1_0001_0000_00000_00_0_0010 = .armTeq .vs 1 (.regImm 2 .lsl 0) ∧
    decodeArm 0b0111_00_0_1010_1_0001_0000_00000_00_0_0010 = .armCmp .vc 1 (.regImm 2 .lsl 0) ∧
    decodeArm 0b1000_00_0_1011_1_0001_0000_00000_00_0_0010 = .armCmn .hi 1 (.regImm 2 .lsl 0) ∧
    decodeArm 0b1001_00_0_1100_0_0001_0011_00000_00_0_0010 = .armOrr .ls false 3 1 (.regImm 2 .lsl 0) ∧
    decodeArm 0b1010_00_0_1101_0_0000_0011_00000_00_0_0010 = .armMov .ge false 3 (.regImm 2 .lsl 0) ∧
    decodeArm 0b1011_00_0_1110_0_0001_0011_00000_00_0_0010 = .armBic .lt false 3 1 (.regImm 2 .lsl 0) ∧
    decodeArm 0b1100_00_0_1111_0_0000_0011_00000_00_0_0010 = .armMvn .gt false 3 (.regImm 2 .lsl 0) := by decide +kernel

/-- Status transfers (R126, R207 to R209). -/
theorem test_decode_status :
    decodeArm 0b1110_00010_0_00_1111_0011_000000000000 = .armMrs .al .cpsr 3 ∧
    decodeArm 0b1110_00110_1_00_1111_0011_000000000000 = .armMrsBit25 .al .spsr 3 ∧
    decodeArm 0b1110_00010_1_10_1001_1111_00000000_0101 = .armMsrReg .al .spsr 0b1001 5 ∧
    decodeArm 0b1110_00110_0_10_1000_1111_0010_00001111 = .armMsrImm .al .cpsr 0b1000 2 15 := by decide +kernel

/-- Multiplies (R127, R128, R220 to R226). -/
theorem test_decode_multiply :
    decodeArm 0b1110_000000_0_1_0001_0000_0010_1001_0011 = .armMul .al true 1 2 3 ∧
    decodeArm 0b1110_000000_1_0_0001_0100_0010_1001_0011 = .armMla .al false 1 4 2 3 ∧
    decodeArm 0b1110_00001_0_0_0_0001_0100_0010_1001_0011 = .armUmull .al false 1 4 2 3 ∧
    decodeArm 0b1110_00001_0_1_0_0001_0100_0010_1001_0011 = .armUmlal .al false 1 4 2 3 ∧
    decodeArm 0b1110_00001_1_0_1_0001_0100_0010_1001_0011 = .armSmull .al true 1 4 2 3 ∧
    decodeArm 0b1110_00001_1_1_0_0001_0100_0010_1001_0011 = .armSmlal .al false 1 4 2 3 := by decide +kernel

/-- Single data transfers, `cccc 01 I P U B W L nnnn dddd` and an offset (R132, R230 to R237). -/
theorem test_decode_single_transfer :
    decodeArm 0b1110_01_0_1_1_0_0_1_0001_0010_000000000100 = .armLdr .al (.pre false) true (.imm 4) 1 2 ∧
    decodeArm 0b1110_01_0_0_0_0_0_0_0001_0010_000000000100 = .armStr .al .post false (.imm 4) 1 2 ∧
    decodeArm 0b1110_01_1_1_1_1_1_1_0001_0010_00011_10_0_0100 = .armLdrb .al (.pre true) true (.reg 4 .asr 3) 1 2 ∧
    decodeArm 0b1110_01_1_1_0_1_0_0_0001_0010_00000_11_0_0100 = .armStrb .al (.pre false) false (.reg 4 .ror 0) 1 2 ∧
    decodeArm 0b1110_01_0_0_1_0_1_1_0001_0010_111111111111 = .armLdrt .al true (.imm 4095) 1 2 ∧
    decodeArm 0b1110_01_0_0_0_1_1_1_0001_0010_000000000001 = .armLdrbt .al false (.imm 1) 1 2 ∧
    decodeArm 0b1110_01_0_0_1_0_1_0_0001_0010_000000000001 = .armStrt .al true (.imm 1) 1 2 ∧
    decodeArm 0b1110_01_0_0_1_1_1_0_0001_0010_000000000001 = .armStrbt .al true (.imm 1) 1 2 := by decide +kernel

/-- Halfword transfers and swaps (R129, R131, R240 to R243, R256, R257). -/
theorem test_decode_half_transfer :
    decodeArm 0b1110_000_1_1_1_0_1_0001_0010_1010_1_01_1_0101 = .armLdrh .al (.pre false) true (.imm 0xA5) 1 2 ∧
    decodeArm 0b1110_000_0_0_0_0_0_0001_0010_0000_1_01_1_0101 = .armStrh .al .post false (.reg 5) 1 2 ∧
    decodeArm 0b1110_000_1_0_1_1_1_0001_0010_0000_1_10_1_0101 = .armLdrsb .al (.pre true) false (.imm 5) 1 2 ∧
    decodeArm 0b1110_000_1_1_0_0_1_0001_0010_0000_1_11_1_0101 = .armLdrsh .al (.pre false) true (.reg 5) 1 2 ∧
    decodeArm 0b1110_00010_0_00_0001_0010_0000_1001_0011 = .armSwp .al 1 2 3 ∧
    decodeArm 0b1110_00010_1_00_0001_0010_0000_1001_0011 = .armSwpb .al 1 2 3 := by decide +kernel

/-- Block transfers and branches (R133, R134, R250, R251, R260 to R262). -/
theorem test_decode_block_branch :
    decodeArm 0b1110_100_0_1_0_1_1_0100_1000000000000001 = .armLdm .al .ia false true 4 0x8001 ∧
    decodeArm 0b1110_100_1_0_1_0_0_0100_0110000000000000 = .armStm .al .db true false 4 0x6000 ∧
    decodeArm 0b1110_101_0_000000000000000000100000 = .armB .al 0x20 ∧
    decodeArm 0b1110_101_1_111111111111111111111110 = .armBl .al 0xFFFFFE ∧
    decodeArm 0b1110_0001_0010_1111_1111_1111_0001_1110 = .armBx .al 14 := by decide +kernel

/-- The software interrupt and the illegal instructions (R135 to R137, R263 to R272). -/
theorem test_decode_system :
    decodeArm 0b1110_1111_000100100011010001010110 = .armSwi .al 0x123456 ∧
    decodeArm 0b1110_0001_0010_0000_0000_0001_0111_0010 = .armBkpt .al 1 2 ∧
    decodeArm 0b1110_011_11111111000000001111_1_0000 = .armUnd .al 0xF_F00F 0 ∧
    decodeArm 0b1110_000_00100000000000000_1001_0000 = .armUndMulSwap .al 0b0_0100_0000_0000_0000 0 ∧
    decodeArm 0b1110_000_0000_0_000000000000_11_0_1_0000 = .armUndLdrdStrd .al 0 0 false 0 ∧
    decodeArm 0b1110_1110_0001_0010_0011_0100_101_0_0110 = .armCdp .al 1 2 3 4 5 6 ∧
    decodeArm 0b1110_110_1100_1_0001_0010_0011_00000100 = .armLdc .al 0b1100 1 2 3 4 ∧
    decodeArm 0b1110_110_1001_0_0001_0010_0011_00000100 = .armStc .al 0b1001 1 2 3 4 ∧
    decodeArm 0b1110_1110_001_1_0010_0011_0100_101_1_0110 = .armMrc .al 1 2 3 4 5 6 ∧
    decodeArm 0b1110_1110_001_0_0010_0011_0100_101_1_0110 = .armMcr .al 1 2 3 4 5 6 := by decide +kernel

/-- THUMB formats 1 to 3 (R281 to R291). -/
theorem test_decode_thumb_formats_1_to_3 :
    decodeThumb 0b000_00_00101_010_011 = .thumbLslImm 5 2 3 ∧
    decodeThumb 0b000_01_00101_010_011 = .thumbLsrImm 5 2 3 ∧
    decodeThumb 0b000_10_00101_010_011 = .thumbAsrImm 5 2 3 ∧
    decodeThumb 0b00011_0_0_001_010_011 = .thumbAddReg 1 2 3 ∧
    decodeThumb 0b00011_0_1_001_010_011 = .thumbSubReg 1 2 3 ∧
    decodeThumb 0b00011_1_0_001_010_011 = .thumbAddImm3 1 2 3 ∧
    decodeThumb 0b00011_1_1_001_010_011 = .thumbSubImm3 1 2 3 ∧
    decodeThumb 0b001_00_010_10000001 = .thumbMovImm 2 0x81 ∧
    decodeThumb 0b001_01_010_10000001 = .thumbCmpImm 2 0x81 ∧
    decodeThumb 0b001_10_010_10000001 = .thumbAddImm8 2 0x81 ∧
    decodeThumb 0b001_11_010_10000001 = .thumbSubImm8 2 0x81 := by decide +kernel

/-- THUMB format 4 (R292 to R307). -/
theorem test_decode_thumb_format_4 :
    decodeThumb 0b010000_0000_010_011 = .thumbAnd 2 3 ∧ decodeThumb 0b010000_0001_010_011 = .thumbEor 2 3 ∧
    decodeThumb 0b010000_0010_010_011 = .thumbLslReg 2 3 ∧ decodeThumb 0b010000_0011_010_011 = .thumbLsrReg 2 3 ∧
    decodeThumb 0b010000_0100_010_011 = .thumbAsrReg 2 3 ∧ decodeThumb 0b010000_0101_010_011 = .thumbAdc 2 3 ∧
    decodeThumb 0b010000_0110_010_011 = .thumbSbc 2 3 ∧ decodeThumb 0b010000_0111_010_011 = .thumbRorReg 2 3 ∧
    decodeThumb 0b010000_1000_010_011 = .thumbTst 2 3 ∧ decodeThumb 0b010000_1001_010_011 = .thumbNeg 2 3 ∧
    decodeThumb 0b010000_1010_010_011 = .thumbCmpReg 2 3 ∧ decodeThumb 0b010000_1011_010_011 = .thumbCmn 2 3 ∧
    decodeThumb 0b010000_1100_010_011 = .thumbOrr 2 3 ∧ decodeThumb 0b010000_1101_010_011 = .thumbMul 2 3 ∧
    decodeThumb 0b010000_1110_010_011 = .thumbBic 2 3 ∧ decodeThumb 0b010000_1111_010_011 = .thumbMvn 2 3 := by decide +kernel

/-- THUMB formats 5 and 6, 12 and 13 (R320 to R330). -/
theorem test_decode_thumb_high :
    decodeThumb 0b010001_00_1_0_010_011 = .thumbAddHigh 2 11 ∧ decodeThumb 0b010001_01_0_1_010_011 = .thumbCmpHigh 10 3 ∧
    decodeThumb 0b010001_10_1_1_110_111 = .thumbMovHigh 14 15 ∧ decodeThumb 0b010001_11_0_1_110_000 = .thumbBx 14 ∧
    decodeThumb 0b010001_11_1_0_000_001 = .thumbUndBlxReg 1 ∧ decodeThumb 0b01001_011_10000001 = .thumbLdrPc 3 0x81 ∧
    decodeThumb 0b1010_0_011_10000001 = .thumbAddPc 3 0x81 ∧ decodeThumb 0b1010_1_011_10000001 = .thumbAddSp 3 0x81 ∧
    decodeThumb 0b1011_0000_0_1000001 = .thumbAddSpImm 0x41 ∧ decodeThumb 0b1011_0000_1_1000001 = .thumbAddSpNegImm 0x41 := by
  decide +kernel

/-- THUMB formats 7 to 11 (R331 to R346). -/
theorem test_decode_thumb_transfers :
    decodeThumb 0b0101_0_0_0_001_010_011 = .thumbStrReg 1 2 3 ∧ decodeThumb 0b0101_0_1_0_001_010_011 = .thumbStrbReg 1 2 3 ∧
    decodeThumb 0b0101_1_0_0_001_010_011 = .thumbLdrReg 1 2 3 ∧ decodeThumb 0b0101_1_1_0_001_010_011 = .thumbLdrbReg 1 2 3 ∧
    decodeThumb 0b0101_0_0_1_001_010_011 = .thumbStrhReg 1 2 3 ∧ decodeThumb 0b0101_0_1_1_001_010_011 = .thumbLdsbReg 1 2 3 ∧
    decodeThumb 0b0101_1_0_1_001_010_011 = .thumbLdrhReg 1 2 3 ∧ decodeThumb 0b0101_1_1_1_001_010_011 = .thumbLdshReg 1 2 3 ∧
    decodeThumb 0b011_0_0_00101_010_011 = .thumbStrImm 5 2 3 ∧ decodeThumb 0b011_0_1_00101_010_011 = .thumbLdrImm 5 2 3 ∧
    decodeThumb 0b011_1_0_00101_010_011 = .thumbStrbImm 5 2 3 ∧ decodeThumb 0b011_1_1_00101_010_011 = .thumbLdrbImm 5 2 3 ∧
    decodeThumb 0b1000_0_00101_010_011 = .thumbStrhImm 5 2 3 ∧ decodeThumb 0b1000_1_00101_010_011 = .thumbLdrhImm 5 2 3 ∧
    decodeThumb 0b1001_0_011_10000001 = .thumbStrSp 3 0x81 ∧ decodeThumb 0b1001_1_011_10000001 = .thumbLdrSp 3 0x81 := by decide +kernel

/-- THUMB formats 14 to 19 and the undefined halfwords (R350 to R353, R370 to R380). -/
theorem test_decode_thumb_branch :
    decodeThumb 0b1011_0_10_1_10000001 = .thumbPush true 0x81 ∧ decodeThumb 0b1011_1_10_0_10000001 = .thumbPop false 0x81 ∧
    decodeThumb 0b1100_0_010_10000001 = .thumbStmia 2 0x81 ∧ decodeThumb 0b1100_1_010_10000001 = .thumbLdmia 2 0x81 ∧
    decodeThumb 0b1101_0001_10000001 = .thumbBCond .ne 0x81 ∧ decodeThumb 0b1101_1111_10000001 = .thumbSwi 0x81 ∧
    decodeThumb 0b1101_1110_10000001 = .thumbUndCond 0x81 ∧ decodeThumb 0b1011_1110_10000001 = .thumbBkpt 0x81 ∧
    decodeThumb 0b1011_0001_10000001 = .thumbUnd1011 0x181 ∧ decodeThumb 0b11100_10000000001 = .thumbB 0x401 ∧
    decodeThumb 0b11101_10000000001 = .thumbUndBlxSuffix 0x401 ∧ decodeThumb 0b11110_10000000001 = .thumbBlFirst 0x401 ∧
    decodeThumb 0b11111_10000000001 = .thumbBlSecond 0x401 := by decide +kernel

/-- Bytes in memory order, the low byte first; three bytes are no ARM word. -/
theorem test_decode_bytes :
    decodeBytes false [0x02, 0x00, 0x81, 0xE0, 0x55] = .ok (.armAdd .al false 0 1 (.regImm 2 .lsl 0), [0x55]) ∧
    decodeBytes true [0x88, 0x18] = .ok (.thumbAddReg 2 1 0, []) ∧
    decodeBytes false [0x02, 0x00, 0x81] = .error .tooShort ∧ decodeBytes true [0x88] = .error .tooShort := ⟨rfl, rfl, rfl, rfl⟩

/-- What the host asks of a row: the decoder's answer, and the first step after reset, which runs the word. -/
theorem test_host_questions :
    decodeTableWord 32 0xE0810002 = some (.armAdd .al false 0 1 (.regImm 2 .lsl 0)) ∧
    decodeTableWord 16 0x2001 = some (.thumbMovImm 0 1) ∧
    (after (step (State.reset.withFetchWord 32 0xE3A00001))).gpr[0] = 1 ∧
    (after (step (State.reset.withFetchWord 16 0x2001))).gpr[0] = 1 := by decide +kernel

/-! ### One step: the rows of `95_test_vectors.md`

In System mode unless the row says otherwise, with the instruction at 0x08000000 of the cartridge. -/

/-- D1: `ADDS r0, r1, r2` -/
theorem test_add :
    sees (run 32 0xE0910002 0x1F [(0, 0x55), (1, 0xFFFFFFFF), (2, 1)] [] []) 0x8000004 0x6000001F 8
      [(0, 0)] [] = true := by decide +kernel

/-- D3: `SUBS r0, r1, r2` -/
theorem test_sub :
    sees (run 32 0xE0510002 0x1F [(1, 0), (2, 1)] [] []) 0x8000004 0x8000001F 8
      [(0, 0xFFFFFFFF)] [] = true := by decide +kernel

/-- D5: `RSBS r0, r1, #0` -/
theorem test_rsb :
    sees (run 32 0xE2710000 0x1F [(1, 0x80000000)] [] []) 0x8000004 0x9000001F 8
      [(0, 0x80000000)] [] = true := by decide +kernel

/-- D6: `ADCS r0, r1, r2` -/
theorem test_adc :
    sees (run 32 0xE0B10002 0x2000001F [(1, 0xFFFFFFFF), (2, 0), (0, 0x55)] [] []) 0x8000004 0x6000001F 8
      [(0, 0)] [] = true := by decide +kernel

/-- D7: `SBCS r0, r1, r2` -/
theorem test_sbc :
    sees (run 32 0xE0D10002 0x1F [(1, 5), (2, 5)] [] []) 0x8000004 0x8000001F 8
      [(0, 0xFFFFFFFF)] [] = true := by decide +kernel

/-- D8: `RSCS r0, r1, r2` -/
theorem test_rsc :
    sees (run 32 0xE0F10002 0x2000001F [(1, 1), (2, 3)] [] []) 0x8000004 0x2000001F 8
      [(0, 2)] [] = true := by decide +kernel

/-- D11: `MOVS r0, r1, LSR #32` -/
theorem test_mov_lsr32 :
    sees (run 32 0xE1B00021 0x1F [(0, 0x55), (1, 0x80000000)] [] []) 0x8000004 0x6000001F 8
      [(0, 0)] [] = true := by decide +kernel

/-- D14: `MOVS r0, r1, RRX` -/
theorem test_mov_rrx :
    sees (run 32 0xE1B00061 0x2000001F [(1, 2)] [] []) 0x8000004 0x8000001F 8
      [(0, 0x80000001)] [] = true := by decide +kernel

/-- D22: `ANDS r0, r1, #0xFF000000` -/
theorem test_and :
    sees (run 32 0xE21104FF 0x1F [(1, 0xF0F0F0F0)] [] []) 0x8000004 0xA000001F 8
      [(0, 0xF0000000)] [] = true := by decide +kernel

/-- D24: `EORS r0, r1, r2` -/
theorem test_eor :
    sees (run 32 0xE0310002 0x3000001F [(1, 0xFFFF0000), (2, 0xFFFF)] [] []) 0x8000004 0xB000001F 8
      [(0, 0xFFFFFFFF)] [] = true := by decide +kernel

/-- D25: `ORR r0, r1, r2, LSL #8` -/
theorem test_orr :
    sees (run 32 0xE1810402 0x1F [(1, 1), (2, 0xAB)] [] []) 0x8000004 0x1F 8
      [(0, 0xAB01)] [] = true := by decide +kernel

/-- D26: `BICS r0, r1, #0xF0000000` -/
theorem test_bic :
    sees (run 32 0xE3D1020F 0x1F [(1, 0xF0000000), (0, 0x55)] [] []) 0x8000004 0x6000001F 8
      [(0, 0)] [] = true := by decide +kernel

/-- D27: `MVNS r0, #0` -/
theorem test_mvn :
    sees (run 32 0xE3F00000 0x1F [] [] []) 0x8000004 0x8000001F 8
      [(0, 0xFFFFFFFF)] [] = true := by decide +kernel

/-- D28: `TST r1, #0x80000000` -/
theorem test_tst :
    sees (run 32 0xE3110102 0x1F [(1, 0x80000000)] [] []) 0x8000004 0xA000001F 8
      [] [] = true := by decide +kernel

/-- D29: `TEQ r1, r2, LSL #1` -/
theorem test_teq :
    sees (run 32 0xE1310082 0x1F [(1, 0), (2, 0x80000000)] [] []) 0x8000004 0x6000001F 8
      [] [] = true := by decide +kernel

/-- D30: `CMP r1, r2` -/
theorem test_cmp :
    sees (run 32 0xE1510002 0x1F [(1, 3), (2, 5)] [] []) 0x8000004 0x8000001F 8
      [] [] = true := by decide +kernel

/-- D31: `CMN r1, r2` -/
theorem test_cmn :
    sees (run 32 0xE1710002 0x1F [(1, 0xFFFFFFFF), (2, 1)] [] []) 0x8000004 0x6000001F 8
      [] [] = true := by decide +kernel

/-- D33: `MOV r0, pc, LSL r1` -/
theorem test_mov_pc_ahead :
    sees (run 32 0xE1A0011F 0x1F [(1, 0)] [] []) 0x8000004 0x1F 9
      [(0, 0x800000C)] [] = true := by decide +kernel

/-- D36: `MOV pc, r0` -/
theorem test_mov_to_pc :
    sees (run 32 0xE1A0F000 0x1F [(0, 0x8000103)] [] []) 0x8000100 0x1F 22
      [] [] = true := by decide +kernel

/-- D38: `MOVS pc, lr` -/
theorem test_movs_pc :
    sees (run 32 0xE1B0F00E 0x60000013 [(25, 0x8000101)] [(2, 0x90000030)] []) 0x8000100 0x90000030 16
      [] [] = true := by decide +kernel

/-- M2: `MRS r0, SPSR` -/
theorem test_mrs :
    sees (run 32 0xE14F0000 0x13 [] [(2, 0x6000001F)] []) 0x8000004 0x13 8
      [(0, 0x6000001F)] [] = true := by decide +kernel

/-- M3: `MRS r0, SPSR` -/
theorem test_mrs_absent :
    sees (run 32 0xE14F0000 0x1F [] [] []) 0x8000004 0x1F 8
      [(0, 0x1F)] [] = true := by decide +kernel

/-- M5: `MSR CPSR_fc, r0` -/
theorem test_msr_user :
    sees (run 32 0xE129F000 0x10 [(0, 0xF00000DF)] [] []) 0x8000004 0xF0000010 8
      [] [] = true := by decide +kernel

/-- M7: `MSR CPSR_c, r0` -/
theorem test_msr_mode :
    sees (run 32 0xE121F000 0x600000D3 [(0, 0)] [] []) 0x8000004 0x60000013 8
      [] [] = true := by decide +kernel

/-- M9: `MSR CPSR_f, #0x50000000` -/
theorem test_msr_imm :
    sees (run 32 0xE328F205 0xA000001F [] [] []) 0x8000004 0x5000001F 8
      [] [] = true := by decide +kernel

/-- M11: `MSR SPSR_fsxc, r0` -/
theorem test_msr_spsr :
    sees (run 32 0xE16FF000 0x13 [(0, 0x12345678)] [] []) 0x8000004 0x13 8
      [] [] = true := by decide +kernel

/-- U2: `MULS r0, r1, r2` -/
theorem test_mul :
    sees (run 32 0xE0100291 0x3000001F [(1, 0xFFFFFFFF), (2, 2)] [] []) 0x8000004 0xB000001F 9
      [(0, 0xFFFFFFFE)] [] = true := by decide +kernel

/-- U8: `MLA r0, r1, r2, r3` -/
theorem test_mla :
    sees (run 32 0xE0203291 0x1F [(1, 3), (2, 4), (3, 5)] [] []) 0x8000004 0x1F 10
      [(0, 0x11)] [] = true := by decide +kernel

/-- U10: `UMULL r0, r1, r2, r3` -/
theorem test_umull :
    sees (run 32 0xE0810392 0x1F [(2, 0xFFFFFFFF), (3, 0xFFFFFFFF)] [] []) 0x8000004 0x1F 13
      [(0, 1), (1, 0xFFFFFFFE)] [] = true := by decide +kernel

/-- U13: `SMULLS r0, r1, r2, r3` -/
theorem test_smull :
    sees (run 32 0xE0D10392 0x1F [(2, 0xFFFFFFFF), (3, 1)] [] []) 0x8000004 0x8000001F 10
      [(0, 0xFFFFFFFF), (1, 0xFFFFFFFF)] [] = true := by decide +kernel

/-- U15: `UMLAL r0, r1, r2, r3` -/
theorem test_umlal :
    sees (run 32 0xE0A10392 0x1F [(0, 0xFFFFFFFF), (1, 0), (2, 1), (3, 1)] [] []) 0x8000004 0x1F 11
      [(0, 0), (1, 1)] [] = true := by decide +kernel

/-- U16: `SMLAL r0, r1, r2, r3` -/
theorem test_smlal :
    sees (run 32 0xE0E10392 0x1F [(0, 1), (1, 0), (2, 0xFFFFFFFF), (3, 1)] [] []) 0x8000004 0x1F 11
      [(0, 0)] [] = true := by decide +kernel

/-- L2: `LDR r0, [r1, #1]` -/
theorem test_ldr_rotated :
    sees (run 32 0xE5910001 0x1F [(1, 0x3000100)] [] [(0x100, 0x11223344), (0x104, 0x55667788), (0x108, 0x99AABBCC)]) 0x8000004 0x1F 10
      [(0, 0x44112233)] [] = true := by decide +kernel

/-- L9: `LDR r1, [r1], #4` -/
theorem test_ldr_base :
    sees (run 32 0xE4911004 0x1F [(1, 0x3000100)] [] [(0x100, 0x11223344), (0x104, 0x55667788), (0x108, 0x99AABBCC)]) 0x8000004 0x1F 10
      [(1, 0x11223344)] [] = true := by decide +kernel

/-- L13: `LDRB r0, [r1, #3]` -/
theorem test_ldrb :
    sees (run 32 0xE5D10003 0x1F [(1, 0x3000100)] [] [(0x100, 0x11223344), (0x104, 0x55667788), (0x108, 0x99AABBCC)]) 0x8000004 0x1F 10
      [(0, 0x11)] [] = true := by decide +kernel

/-- L15: `STRB r0, [r1, #1]` -/
theorem test_strb :
    sees (run 32 0xE5C10001 0x1F [(0, 0xCAFEBABE), (1, 0x3000200)] [] [(0x200, 0x11111111)]) 0x8000004 0x1F 9
      [] [(0x3000200, 0x1111BE11)] = true := by decide +kernel

/-- L17: `STR r1, [r1], #4` -/
theorem test_str_post :
    sees (run 32 0xE4811004 0x1F [(1, 0x3000200)] [] []) 0x8000004 0x1F 9
      [(1, 0x3000204)] [(0x3000200, 0x3000200)] = true := by decide +kernel

/-- L18: `STR pc, [r1]` -/
theorem test_str_pc :
    sees (run 32 0xE581F000 0x1F [(1, 0x3000200)] [] []) 0x8000004 0x1F 9
      [] [(0x3000200, 0x800000C)] = true := by decide +kernel

/-- L20: `LDRT r0, [r1], #4` -/
theorem test_ldrt :
    sees (run 32 0xE4B10004 0x13 [(1, 0x3000100)] [] [(0x100, 0x11223344), (0x104, 0x55667788), (0x108, 0x99AABBCC)]) 0x8000004 0x13 10
      [(0, 0x11223344), (1, 0x3000104)] [] = true := by decide +kernel

/-- L22: `LDRH r0, [r1, #1]` -/
theorem test_ldrh_odd :
    sees (run 32 0xE1D100B1 0x1F [(1, 0x3000100)] [] [(0x100, 0x11223344), (0x104, 0x55667788), (0x108, 0x99AABBCC)]) 0x8000004 0x1F 10
      [(0, 0x44000033)] [] = true := by decide +kernel

/-- L24: `LDRSH r0, [r1]` -/
theorem test_ldrsh_odd :
    sees (run 32 0xE1D100F0 0x1F [(1, 0x3000109)] [] [(0x100, 0x11223344), (0x104, 0x55667788), (0x108, 0x99AABBCC)]) 0x8000004 0x1F 10
      [(0, 0xFFFFFFBB)] [] = true := by decide +kernel

/-- L25: `LDRSB r0, [r1]` -/
theorem test_ldrsb :
    sees (run 32 0xE1D100D0 0x1F [(1, 0x300010B)] [] [(0x100, 0x11223344), (0x104, 0x55667788), (0x108, 0x99AABBCC)]) 0x8000004 0x1F 10
      [(0, 0xFFFFFF99)] [] = true := by decide +kernel

/-- L29: `STRH r0, [r1]` -/
theorem test_strh :
    sees (run 32 0xE1C100B0 0x1F [(0, 0xCAFEBABE), (1, 0x3000203)] [] [(0x200, 0x11111111)]) 0x8000004 0x1F 9
      [] [(0x3000200, 0xBABE1111)] = true := by decide +kernel

/-- L37: `SWP r0, r1, [r2]` -/
theorem test_swp :
    sees (run 32 0xE1020091 0x1F [(1, 0xCAFEBABE), (2, 0x3000101)] [] [(0x100, 0x11223344), (0x104, 0x55667788), (0x108, 0x99AABBCC)]) 0x8000004 0x1F 11
      [(0, 0x44112233)] [(0x3000100, 0xCAFEBABE)] = true := by decide +kernel

/-- L38: `SWPB r0, r1, [r2]` -/
theorem test_swpb :
    sees (run 32 0xE1420091 0x1F [(1, 0xCAFEBABE), (2, 0x3000101)] [] [(0x100, 0x11223344), (0x104, 0x55667788), (0x108, 0x99AABBCC)]) 0x8000004 0x1F 11
      [(0, 0x33)] [(0x3000100, 0x1122BE44)] = true := by decide +kernel

/-- B4: `STMDB r4!, {r0, r1}` -/
theorem test_stm_db :
    sees (run 32 0xE9240003 0x1F [(0, 0xA0), (1, 0xA1), (2, 0xA2), (4, 0x3000300)] [] []) 0x8000004 0x1F 10
      [(4, 0x30002F8)] [(0x30002F8, 0xA0), (0x30002FC, 0xA1)] = true := by decide +kernel

/-- B10: `STMIA r1!, {r0, r1}` -/
theorem test_stm_base :
    sees (run 32 0xE8A10003 0x1F [(0, 0xA0), (1, 0x3000300)] [] []) 0x8000004 0x1F 10
      [(1, 0x3000308)] [(0x3000300, 0xA0), (0x3000304, 0x3000308)] = true := by decide +kernel

/-- B16: `STMIA r4, {r13, r14}^` -/
theorem test_stm_user :
    sees (run 32 0xE8C46000 0x92 [(4, 0x3000300), (18, 0x300AAAA), (19, 0x800BBBB), (22, 0x300CCCC), (23, 0x800DDDD)] [] []) 0x8000004 0x92 10
      [] [(0x3000300, 0x300AAAA), (0x3000304, 0x800BBBB)] = true := by decide +kernel

/-- B17: `LDMIA r4, {r13, r14}^` -/
theorem test_ldm_user :
    sees (run 32 0xE8D46000 0x92 [(4, 0x3000100), (22, 0x300CCCC), (23, 0x800DDDD)] [] [(0x100, 0x11223344), (0x104, 0x55667788), (0x108, 0x99AABBCC)]) 0x8000004 0x92 11
      [(18, 0x11223344), (19, 0x55667788)] [] = true := by decide +kernel

/-- B18: `LDMIA r13!, {r0, pc}^` -/
theorem test_ldm_return :
    sees (run 32 0xE8FD8001 0x92 [(22, 0x3000100)] [(1, 0x6000003F)] [(0x100, 0x77), (0x104, 0x8000101)]) 0x8000100 0x6000003F 19
      [(0, 0x77), (22, 0x3000108)] [] = true := by decide +kernel

/-- B21: `LDMIA r4!, {}` -/
theorem test_ldm_empty :
    sees (run 32 0xE8B40000 0x1F [(4, 0x3000100)] [] [(0x100, 0x8000200)]) 0x8000200 0x1F 24
      [(4, 0x3000140)] [] = true := by decide +kernel

/-- J2: `B . + 0x88 (offset 0x20)` -/
theorem test_b :
    sees (run 32 0xEA000020 0x1F [] [] []) 0x8000088 0x1F 22
      [] [] = true := by decide +kernel

/-- J5: `BLNE . + 16` -/
theorem test_bl_skipped :
    sees (run 32 0x1B000002 0x4000001F [] [] []) 0x8000004 0x4000001F 8
      [] [] = true := by decide +kernel

/-- J6: `BX r0` -/
theorem test_bx :
    sees (run 32 0xE12FFF10 0x1F [(0, 0x8000101)] [] []) 0x8000100 0x3F 16
      [] [] = true := by decide +kernel

/-- J12: `SWI 0x123456` -/
theorem test_swi :
    sees (run 32 0xEF123456 0x60000010 [] [] []) 8 0x60000093 10
      [(25, 0x8000004)] [] = true := by decide +kernel

/-- J15: `(undefined) 0xE7F000F0` -/
theorem test_und :
    sees (run 32 0xE7F000F0 0x10 [] [] []) 0x8000000 0x10 0
      [] [] = true := by decide +kernel

/-- T2: `LSL r0, r1, #1` -/
theorem test_thumb_lsl :
    sees (run 16 0x0048 0x3F [(1, 0x80000001)] [] []) 0x8000002 0x2000003F 5
      [(0, 2)] [] = true := by decide +kernel

/-- T3: `LSR r0, r1, #32` -/
theorem test_thumb_lsr :
    sees (run 16 0x0808 0x3F [(0, 0x55), (1, 0x80000000)] [] []) 0x8000002 0x6000003F 5
      [(0, 0)] [] = true := by decide +kernel

/-- T4: `ASR r0, r1, #32` -/
theorem test_thumb_asr :
    sees (run 16 0x1008 0x3F [(1, 0x80000000)] [] []) 0x8000002 0xA000003F 5
      [(0, 0xFFFFFFFF)] [] = true := by decide +kernel

/-- T6: `ADD r0, r1, r2` -/
theorem test_thumb_add_reg :
    sees (run 16 0x1888 0x3F [(1, 0x7FFFFFFF), (2, 1)] [] []) 0x8000002 0x9000003F 5
      [(0, 0x80000000)] [] = true := by decide +kernel

/-- T7: `SUB r0, r1, r2` -/
theorem test_thumb_sub_reg :
    sees (run 16 0x1A88 0x3F [(0, 0x55), (1, 5), (2, 5)] [] []) 0x8000002 0x6000003F 5
      [(0, 0)] [] = true := by decide +kernel

/-- T8: `ADD r0, r1, #0` -/
theorem test_thumb_add_imm3 :
    sees (run 16 0x1C08 0xF000003F [(1, 0x1234)] [] []) 0x8000002 0x3F 5
      [(0, 0x1234)] [] = true := by decide +kernel

/-- T9: `SUB r0, r1, #7` -/
theorem test_thumb_sub_imm3 :
    sees (run 16 0x1FC8 0x3F [(1, 3)] [] []) 0x8000002 0x8000003F 5
      [(0, 0xFFFFFFFC)] [] = true := by decide +kernel

/-- T10: `MOV r0, #0` -/
theorem test_thumb_mov_imm :
    sees (run 16 0x2000 0xB000003F [(0, 0x55)] [] []) 0x8000002 0x7000003F 5
      [(0, 0)] [] = true := by decide +kernel

/-- T11: `CMP r0, #255` -/
theorem test_thumb_cmp_imm :
    sees (run 16 0x28FF 0x3F [(0, 0xFF)] [] []) 0x8000002 0x6000003F 5
      [] [] = true := by decide +kernel

/-- T12: `ADD r0, #255` -/
theorem test_thumb_add_imm8 :
    sees (run 16 0x30FF 0x3F [(0, 0xFFFFFF01)] [] []) 0x8000002 0x6000003F 5
      [(0, 0)] [] = true := by decide +kernel

/-- T13: `SUB r0, #1` -/
theorem test_thumb_sub_imm8 :
    sees (run 16 0x3801 0x3F [(0, 0)] [] []) 0x8000002 0x8000003F 5
      [(0, 0xFFFFFFFF)] [] = true := by decide +kernel

/-- T14: `AND r0, r1` -/
theorem test_thumb_and :
    sees (run 16 0x4008 0x3000003F [(0, 0xF0), (1, 0xF)] [] []) 0x8000002 0x7000003F 5
      [(0, 0)] [] = true := by decide +kernel

/-- T15: `EOR r0, r1` -/
theorem test_thumb_eor :
    sees (run 16 0x4048 0x3F [(0, 0xFF00FF00), (1, 0xFF00FF0)] [] []) 0x8000002 0x8000003F 5
      [(0, 0xF0F0F0F0)] [] = true := by decide +kernel

/-- T17: `LSL r0, r1` -/
theorem test_thumb_lsl_reg :
    sees (run 16 0x4088 0x3F [(0, 1), (1, 0x20)] [] []) 0x8000002 0x6000003F 6
      [(0, 0)] [] = true := by decide +kernel

/-- T19: `LSR r0, r1` -/
theorem test_thumb_lsr_reg :
    sees (run 16 0x40C8 0x3F [(0, 0x80000000), (1, 0x20)] [] []) 0x8000002 0x6000003F 6
      [(0, 0)] [] = true := by decide +kernel

/-- T20: `ASR r0, r1` -/
theorem test_thumb_asr_reg :
    sees (run 16 0x4108 0x3F [(0, 0x80000000), (1, 0x28)] [] []) 0x8000002 0xA000003F 6
      [(0, 0xFFFFFFFF)] [] = true := by decide +kernel

/-- T21: `ROR r0, r1` -/
theorem test_thumb_ror_reg :
    sees (run 16 0x41C8 0x3F [(0, 0x80000001), (1, 0x20)] [] []) 0x8000002 0xA000003F 6
      [] [] = true := by decide +kernel

/-- T23: `ADC r0, r1` -/
theorem test_thumb_adc :
    sees (run 16 0x4148 0x2000003F [(0, 0xFFFFFFFF), (1, 0)] [] []) 0x8000002 0x6000003F 5
      [(0, 0)] [] = true := by decide +kernel

/-- T24: `SBC r0, r1` -/
theorem test_thumb_sbc :
    sees (run 16 0x4188 0x3F [(0, 5), (1, 5)] [] []) 0x8000002 0x8000003F 5
      [(0, 0xFFFFFFFF)] [] = true := by decide +kernel

/-- T25: `TST r0, r1` -/
theorem test_thumb_tst :
    sees (run 16 0x4208 0x3F [(0, 0x80000000), (1, 0x80000000)] [] []) 0x8000002 0x8000003F 5
      [] [] = true := by decide +kernel

/-- T27: `NEG r0, r1` -/
theorem test_thumb_neg :
    sees (run 16 0x4248 0x3F [(1, 0x80000000)] [] []) 0x8000002 0x9000003F 5
      [(0, 0x80000000)] [] = true := by decide +kernel

/-- T28: `CMP r0, r1` -/
theorem test_thumb_cmp :
    sees (run 16 0x4288 0x3F [(0, 0x80000000), (1, 1)] [] []) 0x8000002 0x3000003F 5
      [] [] = true := by decide +kernel

/-- T29: `CMN r0, r1` -/
theorem test_thumb_cmn :
    sees (run 16 0x42C8 0x3F [(0, 1), (1, 0xFFFFFFFF)] [] []) 0x8000002 0x6000003F 5
      [] [] = true := by decide +kernel

/-- T30: `ORR r0, r1` -/
theorem test_thumb_orr :
    sees (run 16 0x4308 0x3F [(0, 0xF0), (1, 0xF)] [] []) 0x8000002 0x3F 5
      [(0, 0xFF)] [] = true := by decide +kernel

/-- T31: `MUL r0, r1` -/
theorem test_thumb_mul :
    sees (run 16 0x4348 0x3000003F [(0, 0x10000), (1, 0x10000)] [] []) 0x8000002 0x7000003F 8
      [(0, 0)] [] = true := by decide +kernel

/-- T33: `BIC r0, r1` -/
theorem test_thumb_bic :
    sees (run 16 0x4388 0x3F [(0, 0xFF), (1, 0xF)] [] []) 0x8000002 0x3F 5
      [(0, 0xF0)] [] = true := by decide +kernel

/-- T34: `MVN r0, r1` -/
theorem test_thumb_mvn :
    sees (run 16 0x43C8 0x3F [(1, 0)] [] []) 0x8000002 0x8000003F 5
      [(0, 0xFFFFFFFF)] [] = true := by decide +kernel

/-- T35: `ADD r0, r8` -/
theorem test_thumb_add_high :
    sees (run 16 0x4440 0xF000003F [(0, 1), (8, 0xFFFFFFFF)] [] []) 0x8000002 0xF000003F 5
      [(0, 0)] [] = true := by decide +kernel

/-- T38: `ADD pc, r0` -/
theorem test_thumb_add_pc_dest :
    sees (run 16 0x4487 0x3F [(0, 0x101)] [] []) 0x8000104 0x3F 13
      [] [] = true := by decide +kernel

/-- T39: `CMP r8, r9` -/
theorem test_thumb_cmp_high :
    sees (run 16 0x45C8 0x3F [(8, 1), (9, 2)] [] []) 0x8000002 0x8000003F 5
      [] [] = true := by decide +kernel

/-- T41: `MOV pc, lr` -/
theorem test_thumb_mov_pc :
    sees (run 16 0x46F7 0x3F [(19, 0x8000203)] [] []) 0x8000202 0x3F 13
      [] [] = true := by decide +kernel

/-- T44: `ADD r0, sp, #1020` -/
theorem test_thumb_add_sp :
    sees (run 16 0xA8FF 0x3F [(18, 0x3007F00)] [] []) 0x8000002 0x3F 5
      [(0, 0x30082FC)] [] = true := by decide +kernel

/-- T45: `ADD sp, #-508` -/
theorem test_thumb_sub_sp_imm :
    sees (run 16 0xB0FF 0x3F [(18, 0x3007F00)] [] []) 0x8000002 0x3F 5
      [(18, 0x3007D04)] [] = true := by decide +kernel

/-- T46: `ADD sp, #508` -/
theorem test_thumb_add_sp_imm :
    sees (run 16 0xB07F 0x3F [(18, 0x3007F00)] [] []) 0x8000002 0x3F 5
      [(18, 0x30080FC)] [] = true := by decide +kernel

/-- H3: `LDR r0, [r1, r2]` -/
theorem test_thumb_ldr_reg :
    sees (run 16 0x5888 0x3F [(1, 0x3000100), (2, 5)] [] [(0x100, 0x11223344), (0x104, 0x55667788), (0x108, 0x99AABBCC)]) 0x8000002 0x3F 7
      [(0, 0x88556677)] [] = true := by decide +kernel

/-- H4: `STR r0, [r1, r2]` -/
theorem test_thumb_str_reg :
    sees (run 16 0x5088 0x3F [(0, 0xCAFEBABE), (1, 0x3000200), (2, 6)] [] []) 0x8000002 0x3F 6
      [] [(0x3000204, 0xCAFEBABE)] = true := by decide +kernel

/-- H5: `LDRB r0, [r1, r2]` -/
theorem test_thumb_ldrb_reg :
    sees (run 16 0x5C88 0x3F [(1, 0x3000100), (2, 2)] [] [(0x100, 0x11223344), (0x104, 0x55667788), (0x108, 0x99AABBCC)]) 0x8000002 0x3F 7
      [(0, 0x22)] [] = true := by decide +kernel

/-- H6: `STRB r0, [r1, r2]` -/
theorem test_thumb_strb_reg :
    sees (run 16 0x5488 0x3F [(0, 0x1FF), (1, 0x3000200), (2, 3)] [] []) 0x8000002 0x3F 6
      [] [(0x3000200, 0xFF000000)] = true := by decide +kernel

/-- H7: `STRH r0, [r1, r2]` -/
theorem test_thumb_strh_reg :
    sees (run 16 0x5288 0x3F [(0, 0xCAFEBABE), (1, 0x3000200), (2, 3)] [] []) 0x8000002 0x3F 6
      [] [(0x3000200, 0xBABE0000)] = true := by decide +kernel

/-- H8: `LDRH r0, [r1, r2]` -/
theorem test_thumb_ldrh_reg :
    sees (run 16 0x5A88 0x3F [(1, 0x3000100), (2, 1)] [] [(0x100, 0x11223344), (0x104, 0x55667788), (0x108, 0x99AABBCC)]) 0x8000002 0x3F 7
      [(0, 0x44000033)] [] = true := by decide +kernel

/-- H9: `LDSB r0, [r1, r2]` -/
theorem test_thumb_ldsb :
    sees (run 16 0x5688 0x3F [(1, 0x3000108), (2, 3)] [] [(0x100, 0x11223344), (0x104, 0x55667788), (0x108, 0x99AABBCC)]) 0x8000002 0x3F 7
      [(0, 0xFFFFFF99)] [] = true := by decide +kernel

/-- H11: `LDSH r0, [r1, r2]` -/
theorem test_thumb_ldsh_odd :
    sees (run 16 0x5E88 0x3F [(1, 0x3000108), (2, 1)] [] [(0x100, 0x11223344), (0x104, 0x55667788), (0x108, 0x99AABBCC)]) 0x8000002 0x3F 7
      [(0, 0xFFFFFFBB)] [] = true := by decide +kernel

/-- H12: `LDR r0, [r1, #124]` -/
theorem test_thumb_ldr_imm :
    sees (run 16 0x6FC8 0x3F [(1, 0x300008C)] [] [(0x100, 0x11223344), (0x104, 0x55667788), (0x108, 0x99AABBCC)]) 0x8000002 0x3F 7
      [(0, 0x99AABBCC)] [] = true := by decide +kernel

/-- H13: `STR r0, [r1, #4]` -/
theorem test_thumb_str_imm :
    sees (run 16 0x6048 0x3F [(0, 0xCAFEBABE), (1, 0x30001FE)] [] []) 0x8000002 0x3F 6
      [] [(0x3000200, 0xCAFEBABE)] = true := by decide +kernel

/-- H14: `LDRB r0, [r1, #31]` -/
theorem test_thumb_ldrb_imm :
    sees (run 16 0x7FC8 0x3F [(1, 0x30000E9)] [] [(0x100, 0x11223344), (0x104, 0x55667788), (0x108, 0x99AABBCC)]) 0x8000002 0x3F 7
      [(0, 0xCC)] [] = true := by decide +kernel

/-- H15: `STRB r0, [r1, #0]` -/
theorem test_thumb_strb_imm :
    sees (run 16 0x7008 0x3F [(0, 0xAB), (1, 0x3000201)] [] []) 0x8000002 0x3F 6
      [] [(0x3000200, 0xAB00)] = true := by decide +kernel

/-- H16: `LDRH r0, [r1, #62]` -/
theorem test_thumb_ldrh_imm :
    sees (run 16 0x8FC8 0x3F [(1, 0x30000C8)] [] [(0x100, 0x11223344), (0x104, 0x55667788), (0x108, 0x99AABBCC)]) 0x8000002 0x3F 7
      [(0, 0x5566)] [] = true := by decide +kernel

/-- H17: `STRH r0, [r1, #2]` -/
theorem test_thumb_strh_imm :
    sees (run 16 0x8048 0x3F [(0, 0xCAFEBABE), (1, 0x3000200)] [] []) 0x8000002 0x3F 6
      [] [(0x3000200, 0xBABE0000)] = true := by decide +kernel

/-- H18: `LDR r0, [sp, #8]` -/
theorem test_thumb_ldr_sp :
    sees (run 16 0x9802 0x3F [(18, 0x3000100)] [] [(0x100, 0x11223344), (0x104, 0x55667788), (0x108, 0x99AABBCC)]) 0x8000002 0x3F 7
      [(0, 0x99AABBCC)] [] = true := by decide +kernel

/-- H19: `STR r0, [sp, #1020]` -/
theorem test_thumb_str_sp :
    sees (run 16 0x90FF 0x3F [(0, 0x77), (18, 0x3000100)] [] []) 0x8000002 0x3F 6
      [] [(0x30004FC, 0x77)] = true := by decide +kernel

/-- H21: `PUSH {r0, lr}` -/
theorem test_thumb_push_lr :
    sees (run 16 0xB501 0x3F [(0, 0xA0), (19, 0x8000123), (18, 0x3007F00)] [] []) 0x8000002 0x3F 7
      [(18, 0x3007EF8)] [(0x3007EF8, 0xA0), (0x3007EFC, 0x8000123)] = true := by decide +kernel

/-- H23: `POP {r0, pc}` -/
theorem test_thumb_pop_pc :
    sees (run 16 0xBD01 0x3F [(18, 0x3000100)] [] [(0x100, 0x77), (0x104, 0x8000201)]) 0x8000200 0x3F 16
      [(0, 0x77), (18, 0x3000108)] [] = true := by decide +kernel

/-- H28: `STMIA r1!, {r0, r1}` -/
theorem test_thumb_stmia_base :
    sees (run 16 0xC103 0x3F [(0, 0xA0), (1, 0x3000300)] [] []) 0x8000002 0x3F 7
      [(1, 0x3000308)] [(0x3000300, 0xA0), (0x3000304, 0x3000308)] = true := by decide +kernel

/-- H29: `LDMIA r0!, {r0, r1}` -/
theorem test_thumb_ldmia_base :
    sees (run 16 0xC803 0x3F [(0, 0x3000100)] [] [(0x100, 0x11223344), (0x104, 0x55667788), (0x108, 0x99AABBCC)]) 0x8000002 0x3F 8
      [(0, 0x11223344), (1, 0x55667788)] [] = true := by decide +kernel

/-- Q1: `BEQ . + 4 + 2*0x10` -/
theorem test_thumb_b_cond :
    sees (run 16 0xD010 0x4000003F [] [] []) 0x8000024 0x4000003F 13
      [] [] = true := by decide +kernel

/-- Q7: `B . + 2050 (offset 0x3FF)` -/
theorem test_thumb_b :
    sees (run 16 0xE3FF 0x3F [] [] []) 0x8000802 0x3F 13
      [] [] = true := by decide +kernel

/-- Q11: `(second half of BL alone) 0xF802` -/
theorem test_thumb_bl_second :
    sees (run 16 0xF802 0x3F [(19, 0x8000100)] [] []) 0x8000104 0x3F 13
      [(19, 0x8000003)] [] = true := by decide +kernel

/-- Q12: `(first half of BL alone) 0xF400` -/
theorem test_thumb_bl_first :
    sees (run 16 0xF400 0x3F [] [] []) 0x8000002 0x3F 5
      [(19, 0x7C00004)] [] = true := by decide +kernel

/-- Q14: `BX r0` -/
theorem test_thumb_bx :
    sees (run 16 0x4700 0x3F [(0, 0x8000103)] [] []) 0x8000102 0x3F 13
      [] [] = true := by decide +kernel

/-- Q18: `SWI 0xAB` -/
theorem test_thumb_swi :
    sees (run 16 0xDFAB 0x60000030 [] [] []) 8 0x60000093 7
      [(25, 0x8000002)] [] = true := by decide +kernel

/-- Q19: `(undefined) 0xDE00` -/
theorem test_thumb_und :
    sees (run 16 0xDE00 0x3F [] [] []) 0x8000000 0x3F 0
      [] [] = true := by decide +kernel

/-! ### One step: by the rules, where no row was taken -/

/-- R261: BL writes `A + 4` to r14 and adds the offset to `A + 8`. -/
theorem test_bl :
    sees (run 32 0xEB000002 0x1F [] [] []) 0x08000010 0x1F 22 [(19, 0x08000004)] [] = true := by decide +kernel

/-- R235, R236, R237: the T forms are post-indexed. -/
theorem test_t_forms :
    sees (run 32 0xE4F10001 0x1F [(1, 0x03000101)] [] [(0x100, 0x11223344)]) 0x08000004 0x1F 10
      [(0, 0x33), (1, 0x03000102)] [] = true ∧
    sees (run 32 0xE4A10004 0x1F [(0, 7), (1, 0x03000100)] [] []) 0x08000004 0x1F 9 [(1, 0x03000104)]
      [(0x03000100, 7)] = true ∧
    sees (run 32 0xE4E10004 0x1F [(0, 0x107), (1, 0x03000100)] [] []) 0x08000004 0x1F 9 [(1, 0x03000104)]
      [(0x03000100, 7)] = true := by decide +kernel

/-- R325, R330: `A + 4` with its low two bits dropped. -/
theorem test_thumb_pc_relative :
    sees (run 16 0xA001 0x3F [] [] []) 0x08000002 0x3F 5 [(0, 0x08000008)] [] = true ∧
    (run 16 0x4800 0x3F [] [] []).2.gpr[0] = 0 ∧ (run 16 0x4800 0x3F [] [] []).2.tally = 14 := by decide +kernel

/-- M3, M7, M11: the events of an absent saved word and of an invalid mode; the saved word and its tag. -/
theorem test_status_events :
    (run 32 0xE14F0000 0x1F [] [] []).2.diag = [.spsrAbsent .read] ∧
    (run 32 0xE121F000 0x600000D3 [] [] []).2.diag = [.invalidModeWrite 0] ∧
    (run 32 0xE16FF000 0x13 [(0, 0x12345678)] [] []).2.spsr[2] = 0x12345678 ∧
    (run 32 0xE16FF000 0x13 [(0, 0x12345678)] [] []).2.spsrValid[2] = true := by decide +kernel

/-- J12, J15, J16: the saved status of SWI; the fatal record; the Undefined exception under the other policy. -/
theorem test_exceptions :
    (run 32 0xEF123456 0x60000010 [] [] []).2.spsr[2] = 0x60000010 ∧
    (run 32 0xE7F000F0 0x10 [] [] []).2.fatal = some ⟨0x08000000, 0xE7F000F0, .aUND⟩ ∧
    (run 32 0xE7F000F0 0x10 [] [] []).2.cyclesTotal = 0 ∧
    (let s := (start 0x80000010 [] [] []).withFetchWord 32 0xE7F000F0
     let t := after (step { s with params := { s.params with undPolicy := .vector } })
     t.pc = 4 ∧ t.cpsr = 0x8000009B ∧ t.gpr[29] = 0x08000004 ∧ t.spsr[4] = 0x80000010 ∧ t.tally = 10) := by decide +kernel

/-- R161, R162: the reserved condition is skipped and logged. -/
theorem test_reserved_condition :
    (run 32 0xF3A00001 0x1F [] [] []).2.diag = [.reservedCondition 0x08000000 0xF3A00001] ∧
    sees (run 32 0xF3A00001 0x1F [] [] []) 0x08000004 0x1F 8 [] [] = true := by decide +kernel

/-- R421, R403, R185: an IRQ entry from THUMB state: `N + 4`, two refill fetches and one cycle. -/
theorem test_irq :
    let s := start 0x3F [] [] []
    let t := after (step { s with ie := 0x18, iflag := 0x1C, ime := 1 })
    t.pc = 0x18 ∧ t.cpsr = 0x92 ∧ t.gpr[23] = 0x08000004 ∧ t.spsr[1] = 0x3F ∧ t.lastIrq = some 3 ∧ t.iflag = 0x1C ∧
      t.tally = 3 := by decide +kernel

/-- R434, R435: a halt tick; the wake-up with IME clear runs the next instruction. -/
theorem test_halt :
    let s := (start 0x1F [] [] []).withFetchWord 32 0xE3A00001
    let h : State := { s with halted := true }
    (after (step h)).tally = 1 ∧ (after (step h)).pc = 0x08000000 ∧ (after (step h)).halted = true ∧
    (after (step { h with ie := 1, iflag := 1 })).gpr[0] = 1 ∧
    (after (step { h with ie := 1, iflag := 1 })).halted = false := by decide +kernel

/-- R454, R455: channel 0 overflows into channel 1 and raises source 3. -/
theorem test_timer_cascade :
    let s := start 0x1F [] [] []
    let t := timerTick { s with timers := (s.timers.set 0 ⟨0xFFFC, 0xFFFF, 0, 0xC0⟩).set 1 ⟨5, 7, 0, 0x87⟩ }
    t.timers[0].counter = 0xFFFC ∧ t.timers[1].counter = 8 ∧ t.timers[1].sub = 0 ∧ t.iflag = 8 := by decide +kernel

/-- R467, R468: the last halfword of a DMA channel: moved, acknowledged by its interrupt, the enable cleared. -/
theorem test_dma :
    let s := start 0x1F [] [] [(0x100, 0x11223344)]
    let t := after (step { s with
      params := { s.params with dmaPresent := true }
      dma := s.dma.set 1 ⟨0x03000102, 0x03000200, 1, 0xC000, 0x03000102, 0x03000200, 0x03000200, 1, true⟩ })
    t.iwram = putWord (putWord [] 0x100 0x11223344) 0x200 0x1122 ∧ t.iflag = 0x200 ∧ t.dma[1].cntH = 0x4000 ∧
      t.dma[1].running = false ∧ t.dma[1].srcLatch = 0x03000104 ∧ t.pc = 0x08000000 ∧ t.tally = 2 := by decide +kernel

/-- A state in System mode, with words in IWRAM. -/
def plain : State := start 0x1F [(1, 0x03000100), (4, 0x03000200)] [] [(0x100, 0x11223344), (0x104, 0x08000101)]

/-- R208 and log 31: MSR SPSR with an empty field mask in Supervisor mode: the saved word as before, its tag set. -/
theorem test_msr_empty_mask :
    let s := { start 0x13 [(0, 0xFFFFFFFF)] [] [] with ir := 0xE160F000 }
    let t := after (exec (decodeArm 0xE160F000) s)
    decodeArm 0xE160F000 = .armMsrReg .al .spsr 0 0 ∧ t.spsr = s.spsr ∧ s.spsrValid[2] = false ∧ t.spsrValid[2] = true ∧
      t.cpsr = s.cpsr ∧ t.diag = [] := by decide +kernel

/-- R468: a repeating channel with destination step 3 goes back to the destination latched at its trigger, which is not
the DAD register as rewritten since; its count is latched anew and its enable stays. -/
theorem test_dma_reload :
    let s := start 0x1F [] [] [(0x100, 0x11223344)]
    let t := after (step { s with
      params := { s.params with dmaPresent := true }
      dma := s.dma.set 1 ⟨0x03000100, 0x03000400, 7, 0x9260, 0x03000100, 0x03000208, 0x03000200, 1, true⟩ })
    t.dma[1].dstLatch = 0x03000200 ∧ t.dma[1].cntLatch = 7 ∧ t.dma[1].running = false ∧ t.dma[1].cntH = 0x9260 := by
  decide +kernel

/-- R71, R106: a device whose cost differs by address, width and kind: the first address at the backup cost (WAITCNT = 0:
1 + 4), the others at figures of their own. -/
theorem test_device_cost :
    let own : Config.CostFigures := ⟨.cycles 2, .cycles 3, .cycles 4, .cycles 6, .cycles 7, .cycles 9⟩
    let d : Config.ExtDevice := ⟨0x0E000000, 0x0E000100, true, true, true, true, true, true,
      ⟨[⟨0x0E000000, 0x0E000001, Config.backupCost.rest⟩], own⟩, .storage⟩
    let s : State := { plain with params := { plain.params with extDevices := [d] } }
    (memRead .byte 0x0E000000 s).2.lastCost = 5 ∧ (memRead .byte 0x0E000001 s).2.lastCost = 2 ∧
    (memRead .half 0x0E000002 s).2.lastCost = 3 ∧ (memWrite .byte 0x0E000000 1 s).lastCost = 5 ∧
    (memWrite .byte 0x0E000001 1 s).lastCost = 6 ∧ (memWrite .word 0x0E0000FC 1 s).lastCost = 9 := by decide +kernel

/-- R87, R89: the sentinel in every byte, one event for each, in ascending order. -/
theorem test_unmapped :
    let s := start 0x1F [] [] []
    (memRead .half 0x10000000 s).1 = 0xAAAA ∧
    (memRead .half 0x10000000 s).2.diag = [.unmappedRead 0x10000000, .unmappedRead 0x10000001] ∧
    (memWrite .byte 0x10000000 1 s).diag = [.unmappedWrite 0x10000000] := by decide +kernel

/-- R40, R43, R452: a 1 written to IF clears the bit; a store to HALTCNT halts; an enable loads the counter. -/
theorem test_registers :
    let s := { start 0x1F [] [] [] with iflag := 0x0101 }
    (memWrite .byte 0x04000203 0x01 s).iflag = 0x0001 ∧ (memWrite .byte 0x04000301 0 s).halted = true ∧
    (memWrite .word 0x04000104 0x0080FFF0 s).timers[1] = ⟨0xFFF0, 0xFFF0, 0, 0x80⟩ := by decide +kernel

/-! ### A state and operands that meet the hypotheses of each statement -/

/-- The invariant, from its parts as one decidable question. -/
theorem inv_of {s : State}
    (h : s.bios.ok Config.biosSize = true ∧ s.ewram.ok Config.ewramSize = true ∧ s.iwram.ok Config.iwramSize = true ∧
      s.rom.ok s.params.romSize = true ∧ s.extMem.wf = true ∧ s.params.romSize ≤ Config.romMax ∧
      s.ie &&& 0x3FFF#16 = s.ie ∧ s.iflag &&& 0x3FFF#16 = s.iflag ∧ s.waitcnt &&& 0x5FFF#16 = s.waitcnt ∧
      s.ime &&& 1#32 = s.ime ∧ s.postflg &&& 1#8 = s.postflg ∧ (∀ k : Fin 4, (s.timers[k]).ok = true) ∧
      (∀ x : Fin 4, (s.dma[x]).ok = true) ∧ validMode s.modeCode = true ∧ alignPc s.thumb s.pc = s.pc ∧
      (s.params.dmaPresent = false → s.dma = Vector.replicate 4 DmaChannel.initial) ∧ s.fatal = none) : s.Inv := by
  obtain ⟨h1, h2, h3, h4, h5, h6, h7, h8, h9, h10, h11, h12, h13, h14, h15, h16, h17⟩ := h
  exact ⟨⟨h1, h2, h3, h4, h5, h6⟩, ⟨h7, h8, h9, h10, h11, h12, h13⟩, h14, h15, h16, fun r hr => by rw [h17] at hr; cases hr⟩

/-- The same in THUMB state. -/
def plainThumb : State := { plain with cpsr := 0x3F }

theorem plain_inv : plain.Inv := inv_of (by decide +kernel)

theorem plain_memories : plain.MemoriesOk := plain_inv.memories

/-- An answer that is a next state is the next state `after` names. -/
theorem next_after {o : Host.Outcome State Fault Refusal} (h : (match o with | .next _ => true | _ => false) = true) :
    o = .next (after o) := by
  cases o with
  | next t => rfl
  | fault r => cases h
  | refused r => cases h

theorem plain_step : step plain = .next (after (step plain)) := next_after (by decide +kernel)

/-- RoundTrip and DecoderIsTotal: well-formed terms of the three checked constructors at their bounds, one of another;
byte lists too short by one and empty. -/
theorem witness_RoundTrip_DecoderIsTotal :
    (Instr.armUndMulSwap .nv 0b1_1111_1111_1111_1111 15).wf = true ∧ (Instr.thumbBCond .eq 0).wf = true ∧
    (Instr.thumbBCond .le 255).wf = true ∧ (Instr.thumbUnd1011 0xFFF).wf = true ∧
    (Instr.armMov .nv true 15 (.regReg 15 .ror 15)).wf = true ∧
    ([] : List Byte).length < 2 ∧ [(0 : Byte)].length < 2 ∧ [(0 : Byte), 0, 0].length < 4 := by decide

/-- StepKeepsInv, CyclesAccounted, EventsKeepInv. -/
theorem witness_StepKeepsInv_CyclesAccounted_EventsKeepInv : ∃ s t : State, s.Inv ∧ step s = .next t :=
  ⟨plain, _, plain_inv, plain_step⟩

/-- R424: the last source sets its bit; the number after it does nothing. -/
theorem test_raise : (hostRaise 13 plain).iflag = 0x2000 ∧ hostRaise 14 plain = plain := by decide +kernel

/-- StepRunsDecodedInstruction: both states of T; the fetch from the cartridge. -/
theorem witness_StepRunsDecodedInstruction :
    plain.ready = true ∧ plainAccess plain plain.fetchWidth plain.pc = true ∧
    plainThumb.ready = true ∧ plainAccess plainThumb plainThumb.fetchWidth plainThumb.pc = true := by decide +kernel

/-- FatalStateStays, IllegalInstructions (its last clause). -/
theorem witness_FatalStateStays :
    ({ plain with fatal := some ⟨0, 0, .aUND⟩ } : State).fatal.isSome = true := by decide +kernel

/-- HaltedStep: nothing pending under either cycle model; the highest source pending. -/
theorem witness_HaltedStep :
    let s : State := { plain with halted := true }
    let d : State := { s with params := { s.params with cycleModel := .draw } }
    let p : State := { s with ie := 0x2000, iflag := 0x2000 }
    (s.fatal = none ∧ dmaEligible s = false ∧ s.halted = true ∧ s.ie &&& s.iflag &&& 0x3FFF#16 = 0 ∧
      s.params.cycleModel = .table) ∧
    (d.fatal = none ∧ dmaEligible d = false ∧ d.halted = true ∧ d.ie &&& d.iflag &&& 0x3FFF#16 = 0 ∧
      d.params.cycleModel = .draw) ∧
    (p.fatal = none ∧ dmaEligible p = false ∧ p.halted = true ∧ p.ie &&& p.iflag &&& 0x3FFF#16 ≠ 0) := by decide +kernel

/-- InterruptEntry: the lowest and the highest source, the cycle table. -/
theorem witness_InterruptEntry :
    let s : State := { plain with ime := 1, ie := 1, iflag := 1 }
    let t : State := { plain with ime := 1, ie := 0x2000, iflag := 0x2000 }
    (s.fatal = none ∧ dmaEligible s = false ∧ s.ime.getLsbD 0 = true ∧ s.cpsr.getLsbD 7 = false ∧
      s.ie &&& s.iflag &&& 0x3FFF#16 ≠ 0 ∧ s.params.cycleModel = .table) ∧
    (t.fatal = none ∧ dmaEligible t = false ∧ t.ime.getLsbD 0 = true ∧ t.cpsr.getLsbD 7 = false ∧
      t.ie &&& t.iflag &&& 0x3FFF#16 ≠ 0) := by decide +kernel

/-- A state whose DMA channel 1 is running, with the control word and count given; channel 3 runs too. -/
def moving (cntH : Half) (left : Nat) : State :=
  { plain with
    params := { plain.params with dmaPresent := true }
    dma := (plain.dma.set 1 ⟨0x03000100, 0x03000200, 2, cntH, 0x03000102, 0x03000202, 0x03000300, left, true⟩).set 3
      ⟨0, 0, 0, 0x8000, 0, 0, 0, 1, true⟩ }

/-- DmaMovesOneUnit: halfwords and words, more than one unit left and the last one, with and without repeat. -/
theorem witness_DmaMovesOneUnit :
    (moving 0xC000 2).Inv ∧ (moving 0x8400 1).Inv ∧ (moving 0x9200 1).Inv ∧
    (∀ y : Fin 4, y < 1 → ((moving 0xC000 2).dma[y]).running = false) ∧
    (let s := moving 0xC000 2
     s.fatal = none ∧ s.params.dmaPresent = true ∧ (s.dma[1]).running = true ∧ (s.dma[1]).unit32 = false ∧
      (s.dma[1]).cntLatch ≠ 1 ∧ plainAccess s .half 0x03000102 = true ∧ device s.params 0x03000102 ≠ .io ∧
      device s.params 0x03000202 = .iwram) ∧
    (let s := moving 0x8400 1
     (s.dma[1]).running = true ∧ (s.dma[1]).unit32 = true ∧ (s.dma[1]).cntLatch = 1 ∧ (s.dma[1]).repeats = false ∧
      plainAccess s .word 0x03000100 = true ∧ device s.params 0x03000200 = .iwram) ∧
    (let s := moving 0x9200 1
     (s.dma[1]).running = true ∧ (s.dma[1]).cntLatch = 1 ∧ (s.dma[1]).repeats = true ∧ (s.dma[1]).timing ≠ 0) := by
  exact ⟨inv_of (by decide +kernel), inv_of (by decide +kernel), inv_of (by decide +kernel), by decide +kernel,
    by decide +kernel, by decide +kernel, by decide +kernel⟩

/-- DmaTriggers: a channel not enabled before a store with bit 15; an enabled channel of each start timing; counts at
the ends of their range. -/
theorem witness_DmaTriggers :
    let s : State := { plain with params := { plain.params with dmaPresent := true } }
    (s.params.dmaPresent = true ∧ (s.dma[0]).enabled = false ∧ (0x8000#32).getLsbD 15 = true) ∧
    (∀ k : Fin 4, let c : DmaChannel := { DmaChannel.initial with cntH := 0x8000#16 ||| BitVec.ofNat 16 (k.val * 0x1000) }
      c.enabled = true ∧ c.timing = k.val) ∧
    DmaChannel.count 0 { DmaChannel.initial with cntL := 0x4000 } = 16384 ∧
    DmaChannel.count 3 { DmaChannel.initial with cntL := 0 } = 65536 := by decide +kernel

/-- UserModeIsLeftByException: a step that stays in User mode, and one that leaves it. -/
theorem witness_UserModeIsLeftByException :
    let s := (start 0x10 [] [] []).withFetchWord 32 0xE12FF001
    let e := (start 0x10 [] [] []).withFetchWord 32 0xEF000000
    s.Inv ∧ e.Inv ∧ (after (step s)).cpsr.extractLsb' 0 5 = 0b10000#5 ∧ (after (step e)).cpsr.extractLsb' 0 5 ≠ 0b10000#5 ∧
    step s = .next (after (step s)) ∧ step e = .next (after (step e)) :=
  ⟨inv_of (by decide +kernel), inv_of (by decide +kernel), by decide +kernel, by decide +kernel,
    next_after (by decide +kernel), next_after (by decide +kernel)⟩

/-- RegisterBanks: register numbers other than 15, at the ends of each group. -/
theorem witness_RegisterBanks :
    (0 : Reg) ≠ 15 ∧ (14 : Reg) ≠ 15 ∧ gprSlot 7 .usr = gprSlot 7 .fiq ∧ gprSlot 8 .usr ≠ gprSlot 8 .fiq ∧
    gprSlot 12 .irq = gprSlot 12 .usr ∧ gprSlot 13 .irq ≠ gprSlot 13 .usr ∧ gprSlot 14 .sys = gprSlot 14 .usr := by decide

/-- ShifterMeaning, ImmediateShifts: the rows of section 2.1 at amounts 0, 31, 32, 33 and 255, and fields 0 and 31. -/
theorem witness_Shifter :
    shift .lsl 0x80000001 0 false = ⟨0x80000001, false⟩ ∧ shift .lsl 0x80000001 32 false = ⟨0, true⟩ ∧
    shift .lsr 0x80000001 31 false = ⟨1, false⟩ ∧ shift .asr 0x80000001 33 false = ⟨0xFFFFFFFF, true⟩ ∧
    shift .ror 0x7FFFFFFE 63 true = ⟨0xFFFFFFFC, true⟩ ∧ shift .lsr 0x80000001 255 true = ⟨0, false⟩ ∧
    shiftImm .ror 0x80000001 0 true = ⟨0xC0000000, true⟩ ∧ shiftImm .ror 0x7FFFFFFE 31 true = ⟨0xFFFFFFFC, true⟩ ∧
    shiftImm .lsr 0x80000001 0 false = ⟨0, true⟩ := by decide

/-- Conditions: a word of a condition that fails, and of the reserved one. -/
theorem witness_Conditions :
    (Instr.armMov .eq false 0 (.imm 0 1)).wf = true ∧ encode (.armMov .eq false 0 (.imm 0 1)) = .arm 0x03A00001 ∧
    condPassed plain (Cond.ofCode ((0x03A00001#32).extractLsb' 28 4)) = false ∧
    encode (.armMov .nv false 0 (.imm 0 1)) = .arm 0xF3A00001 ∧
    condPassed plain (Cond.ofCode ((0xF3A00001#32).extractLsb' 28 4)) = false := by decide +kernel

/-- StatusWrite, StatusRestore: an MSR in User mode, a valid and an invalid mode code; every mode with a saved word and
both without. -/
theorem witness_StatusWrite_StatusRestore :
    (writeCpsr 0xF00000DF 0xFFFFFFFF true { plain with cpsr := 0x10 }).cpsr = 0xF0000010 ∧
    (writeCpsr 0xF00000C0 0xFFFFFFFF false plain).diag = [.invalidModeWrite 0] ∧
    (writeCpsr 0xF00000D1 0xFFFFFFFF false plain).cpsr = 0xF00000D1 ∧
    ({ plain with cpsr := 0x10 } : State).mode = .usr ∧ plain.mode = .sys ∧
    (∀ m : Fin 5, ({ plain with cpsr := ([0x11, 0x12, 0x13, 0x17, 0x1B] : List Word).getD m 0 } : State).mode =
      [Mode.fiq, .irq, .svc, .abt, .und].getD m .usr) := by decide +kernel

/-- The statements about ARM instructions: a condition that passes, a destination other than r15, T = 0; those about
THUMB instructions: T = 1; both policies of the illegal ones. -/
theorem witness_conditions_pass :
    condPassed plain .al = true ∧ condPassed plain .ne = true ∧ (14 : Reg) ≠ 15 ∧ plain.cpsr.getLsbD 5 = false ∧
    plainThumb.cpsr.getLsbD 5 = true ∧ plain.params.undPolicy = .fatal ∧
    ({ plain with params := { plain.params with undPolicy := .vector } } : State).params.undPolicy = .vector := by
  decide +kernel

/-- SoftwareInterruptRoundTrip: User mode with `pc` aligned, in both states of T. -/
theorem witness_SoftwareInterruptRoundTrip :
    let s : State := { plain with cpsr := 0x60000010 }
    let t : State := { plain with cpsr := 0x90000030, pc := 0x08000102 }
    (s.cpsr.extractLsb' 0 5 = 0b10000#5 ∧ alignPc s.thumb s.pc = s.pc) ∧
    (t.cpsr.extractLsb' 0 5 = 0b10000#5 ∧ t.cpsr.getLsbD 5 = true ∧ alignPc t.thumb t.pc = t.pc) := by decide +kernel

/-- ArmStatusTransfers: a register and an immediate that are the operand. -/
theorem witness_ArmStatusTransfers :
    plain.armReg 1 = 0x03000100 ∧ (BitVec.setWidth 32 (0x0F#8) : Word).rotateRight (2 * (2#4).toNat) = 0xF0000000 := by
  decide +kernel

/-- MultiplyCycles: the last multiplier of each size and the first of the next (section 2.3). -/
theorem witness_MultiplyCycles :
    mulCycles 0xFF true = 1 ∧ mulCycles 0x100 true = 2 ∧ mulCycles 0xFFFF false = 2 ∧ mulCycles 0x10000 false = 3 ∧
    mulCycles 0xFFFFFF true = 3 ∧ mulCycles 0x1000000 true = 4 ∧ mulCycles 0xFFFFFF00 true = 1 ∧
    mulCycles 0xFFFFFEFF true = 2 ∧ mulCycles 0xFFFEFFFF true = 3 ∧ mulCycles 0xFEFFFFFF true = 4 ∧
    mulCycles 0xFFFFFFFF false = 4 := by decide

/-- BlockTransferPlan: the empty list, one register, all of them. -/
theorem witness_BlockTransferPlan :
    blockRegs 0 = [15] ∧ blockRegs 0x8000 = [15] ∧ (0x8000 : BitVec 16) ≠ 0 ∧ (blockRegs 0xFFFF).length = 16 := by decide

/-- `plain` with two external devices, one of each kind, that take bytes and halfwords. -/
def withDevices : State :=
  let d : Config.ExtDevice := ⟨0x0E000000, 0x0E010000, true, true, false, true, true, false, Config.backupCost, .storage⟩
  { plain with
    params := { plain.params with
      extDevices := [d, { d with start := 0x05000000, stop := 0x05000400, cost := Config.paletteCost, kind := .foreign }] } }

/-- BusReads: an address of each device at the ends of its range, cartridge addresses of the three windows, a sequential
one and one at a 128 KiB boundary, an unmapped word, an external device of each kind and both kinds of figure. -/
theorem witness_BusReads :
    (plainAccess plain .word 0x00000000 = true ∧ plainAccess plain .word 0x00003FFC = true ∧
      plainAccess plain .half 0x02FFFFFE = true ∧ plainAccess plain .byte 0x03FFFFFF = true ∧
      plainAccess plain .word 0x04000200 = true ∧ plainAccess plain .byte 0x04000301 = true ∧
      plainAccess plain .word 0x080003FC = true ∧ plainAccess plain .word 0x08000400 = false) ∧
    (device plain.params 0x00003FFF = .bios ∧ device plain.params 0x02000000 = .ewram ∧
      device plain.params 0x03FFFFFF = .iwram ∧ device plain.params 0x09FFFFFF = .cart ∧
      device plain.params 0x0A000000 = .cart ∧ device plain.params 0x0DFFFFFF = .cart ∧
      (∀ i, i < 4 → device plain.params (0x04000208 + BitVec.ofNat 32 i) = .io) ∧
      (∀ i, i < 4 → device plain.params (0x10000000 + BitVec.ofNat 32 i) = .none)) ∧
    isSequential { plain with seqNext := some 0x0801FFFE } 0x0801FFFE = true ∧
    isSequential { plain with seqNext := some 0x08020000 } 0x08020000 = false ∧
    (match device withDevices.params 0x0E00FFFF, device withDevices.params 0x05000000 with
      | .ext d, .ext e => d.kind == .storage && extReads d .byte && e.kind == .foreign && extReads e .half
      | _, _ => false) = true := by decide +kernel

/-- BusWrites: canonical memories; an address of each device, an external device of each kind. -/
theorem witness_BusWrites :
    withDevices.MemoriesOk ∧ device withDevices.params 0x02000000 = .ewram ∧
    device withDevices.params 0x03FFFFFC = .iwram ∧ device withDevices.params 0x00003FFC = .bios ∧
    device withDevices.params 0x0DFFFFFC = .cart ∧ (0x03FFFFFC : Word).toNat % Width.word.size = 0 ∧
    (match device withDevices.params 0x0E000000, device withDevices.params 0x050003FE with
      | .ext d, .ext e => d.kind == .storage && extWrites d .half && e.kind == .foreign && extWrites e .half
      | _, _ => false) = true :=
  ⟨(inv_of (by decide +kernel) : withDevices.Inv).memories, by decide +kernel⟩

/-- UnmappedAccess: the first and the last unmapped word above the map, and a byte between two cells; the last word
within `ROM_SIZE`, the first beyond it, a halfword that straddles it. -/
theorem witness_UnmappedAccess :
    (∀ i, i < 4 → device plain.params (0x10000000 + BitVec.ofNat 32 i) = .none) ∧
    (∀ i, i < 4 → device plain.params (0xFFFFFFFC + BitVec.ofNat 32 i) = .none) ∧
    (∀ i, i < 1 → device plain.params (0x04000302 + BitVec.ofNat 32 i) = .none) ∧
    (plain.params.romSize = 0x400 ∧ device plain.params 0x080003FC = .cart ∧ device plain.params 0x0A000400 = .cart ∧
      (0x080003FC : Word).toNat % 4 = 0) ∧
    (let s : State := { plain with params := { plain.params with romSize := 0x3FF } }
     device s.params 0x080003FE = .cart ∧ (memRead .half 0x080003FE s).1 = 0xAA00 ∧
      (memRead .half 0x080003FE s).2.diag = [.unmappedRead 0x080003FF]) := by decide +kernel

/-- ControlRegisterWrites: an enable transition and a store without one. -/
theorem witness_ControlRegisterWrites :
    (plain.timers[3]).ctrl.getLsbD 7 = false ∧ (0x80#32).getLsbD 7 = true ∧ (0x47#32).getLsbD 7 = false := by
  decide +kernel

/-- LoadValues: an odd and an even address. -/
theorem witness_LoadValues : (0x03000101 : Word).toNat % 2 = 1 ∧ (0x03000100 : Word).toNat % 2 = 0 := by decide

/-- ArmLoadMultiple: lists without r15 (with the base outside and inside) and with it, the empty list. -/
theorem witness_ArmLoadMultiple :
    condPassed plain .al = true ∧ (15 : Reg) ∉ (blockPlan .ia 0x0003 (plain.armReg 1)).regs ∧
    (blockPlan .ia 0x8001 (plain.armReg 1)).regs[1]? = some 15 ∧ (blockPlan .ia 0 (plain.armReg 1)).regs[0]? = some 15 ∧
    (∀ r ∈ (blockPlan .ia 0x0005 (plain.armReg 1)).regs, r ≠ 15 → gprSlot r .sys ≠ gprSlot 1 plain.mode) ∧
    (∀ k, k < 2 → plainAccess plain .word
      (BitVec.ofNat 32 (((blockPlan .ia 0x8001 (plain.armReg 1)).start + BitVec.ofNat 32 (4 * k)).toNat / 4 * 4)) = true) := by
  decide +kernel

/-- ArmStoreMultiple: a list with the base first, later, and the empty list; the whole of it in work RAM. -/
theorem witness_ArmStoreMultiple :
    plain.MemoriesOk ∧ condPassed plain .al = true ∧ (blockPlan .db 0x8012 (plain.armReg 4)).regs = [1, 4, 15] ∧
    (∀ k, k < 3 → device plain.params
      (BitVec.ofNat 32 (((blockPlan .db 0x8012 (plain.armReg 4)).start + BitVec.ofNat 32 (4 * k)).toNat / 4 * 4)) = .iwram) :=
  ⟨plain_memories, by decide +kernel⟩

/-- NonStoringForms, StoringForms: a form of each kind that answers a next state, the stored bytes in work RAM. -/
theorem witness_Forms :
    storeRange plain (.armMov .al false 0 (.imm 0 1)) = none ∧
    exec (.armMov .al false 0 (.imm 0 1)) plain = .next (after (exec (.armMov .al false 0 (.imm 0 1)) plain)) ∧
    plain.MemoriesOk ∧ storeRange plain (.armStr .al .post true (.imm 4) 4 0) = some (0x03000200, 4) ∧
    exec (.armStr .al .post true (.imm 4) 4 0) plain =
      .next (after (exec (.armStr .al .post true (.imm 4) 4 0) plain)) ∧
    (∀ j, j < 4 → device plain.params (0x03000200 + BitVec.ofNat 32 j) ≠ .io) :=
  ⟨by decide +kernel, next_after (by decide +kernel), plain_memories, by decide +kernel, next_after (by decide +kernel),
    by decide +kernel⟩

/-- ThumbLoadMultiple: POP with `pc`, POP of nothing, LDMIA with the base outside and inside the list. -/
theorem witness_ThumbLoadMultiple :
    let s : State := { plainThumb with gpr := plainThumb.gpr.set 18 0x03000100 }
    s.cpsr.getLsbD 5 = true ∧ s.gpr[gprSlot 13 s.mode] = 0x03000100 ∧
    (∀ k, k < 2 → plainAccess s .word (BitVec.ofNat 32 ((0x03000100#32 + BitVec.ofNat 32 (4 * k)).toNat / 4 * 4)) = true) ∧
    s.gpr[gprSlot (LoReg.toReg 1) s.mode] = 0x03000100 ∧ (1 : Reg) ∉ ([0, 2] : List Reg) ∧ (1 : Reg) ∈ ([0, 1] : List Reg) := by
  decide +kernel

/-- ThumbStoreMultiple: a stack pointer and a base in work RAM, an empty list and nine registers. -/
theorem witness_ThumbStoreMultiple :
    let s : State := { plainThumb with gpr := plainThumb.gpr.set 18 0x03000200 }
    s.MemoriesOk ∧
    (∀ k, k < 9 → device s.params
      (BitVec.ofNat 32 ((s.gpr[gprSlot 13 s.mode] - 36 + BitVec.ofNat 32 (4 * k)).toNat / 4 * 4)) = .iwram) ∧
    device s.params (BitVec.ofNat 32 ((s.gpr[gprSlot 13 s.mode] - 64).toNat / 4 * 4)) = .iwram ∧
    device s.params (BitVec.ofNat 32 ((s.gpr[gprSlot (LoReg.toReg 4) s.mode]).toNat / 4 * 4)) = .iwram :=
  ⟨⟨plain_memories.bios, plain_memories.ewram, plain_memories.iwram, plain_memories.rom, plain_memories.extMem,
    plain_memories.romSize⟩, by decide +kernel⟩

end Sys2Proof.Tests
end

/-! PROOFS. The invariant along runs: a step, then every event, then every sequence of events (`00_scope.md` R6); and
what raising an interrupt does (R424). -/

namespace Sys2Proof.Machine

/-! ### The step keeps the invariant -/

/-- What comes before the instruction (steps 0 to 5 of R160) leaves the invariant, and an instruction that belongs to
the encoding T names. -/
def StepPhase.Sound : StepPhase → Prop
  | .over t => t.Inv
  | .run i t => t.Inv ∧ codeIsThumb (encode i) = t.thumb

theorem decodeFetched_code (thumb : Bool) (w : Word) : codeIsThumb (encode (decodeFetched thumb w)) = thumb := by
  cases thumb
  · exact decodeArm_code w
  · exact decodeThumb_code _

theorem beginInstruction_sound {s : State} (hs : s.Inv) : (beginInstruction s).Sound := by
  unfold beginInstruction
  split
  · exact accountStep_inv (takeIrq_inv hs)
  · have fetched := (fetch_looked s).onBus
    refine ⟨inv_of_counters rfl (fetched.inv hs), ?_⟩
    exact (decodeFetched_code ..).trans fetched.before.thumb.symm

theorem beginStep_sound {s : State} (hs : s.Inv) : (beginStep s).Sound := by
  have started : (s.withTally 0).Inv := inv_of_counters rfl hs
  simp only [beginStep]
  split
  · exact started
  · split
    · exact accountStep_inv ((dmaTick_onBus ‹_›).inv started)
    · split
      · split
        · exact accountStep_inv (inv_of_counters rfl started)
        · exact beginInstruction_sound (inv_of_counters rfl started)
      · exact beginInstruction_sound started

/-- A step keeps the invariant (R160). -/
theorem step_inv {s t : State} (hs : s.Inv) (h : step s = .next t) : t.Inv := by
  have sound := beginStep_sound hs
  unfold step at h
  split at h
  · rename_i hover
    rw [hover] at sound
    cases h
    exact sound
  · rename_i i u hrun
    rw [hrun] at sound
    obtain ⟨hu, hcode⟩ := sound
    split at h
    · cases h
      exact finishStep_inv ((exec_done hcode hu.pc ‹_›).inv hu)
    · cases h
    · cases h

/-! ### The host's calls keep the invariant -/

/-- A start event for every channel (R464). -/
theorem dmaStartAll_onBus (timing : Nat) (s : State) : OnBus s (dmaStartAll timing s) := by
  unfold dmaStartAll
  split
  · have start : ∀ (x : Fin 4) (t : State), OnBus s t → OnBus s (dmaStart timing x t) := fun x t h =>
      h.trans (dmaStart_onBus timing x t (by rw [h.params]; assumption))
    exact start 3 _ (start 2 _ (start 1 _ (start 0 s (.refl s))))
  · exact .refl s

theorem hostScanline_onBus (e : Scanline) (s : State) : OnBus s (hostScanline e s) := by
  cases e <;> exact dmaStartAll_onBus ..

theorem hostDmaSpecial_onBus (x : Fin 4) (s : State) : OnBus s (hostDmaSpecial x s) := by
  unfold hostDmaSpecial
  split
  · exact dmaStart_onBus 3 x s ‹_›
  · exact .refl s

theorem Event.next_inv (e : Event) {s : State} (hs : s.Inv) : (e.next s).Inv := by
  cases e with
  | step =>
    simp only [Event.next]
    cases h : Machine.step s with
    | next t => exact step_inv hs h
    | fault r => exact hs
    | refused r => exact hs
  | raise source => exact (raiseInterrupt_onBus source s).inv hs
  | read w a => exact inv_of_counters rfl ((memRead_looked w (hostAlign w a) s).onBus.inv hs)
  | write w a v => exact inv_of_counters rfl ((memWrite_onBus w (hostAlign w a) v s).inv hs)
  | scanline e => exact (hostScanline_onBus e s).inv hs
  | dmaSpecial x => exact (hostDmaSpecial_onBus x s).inv hs
  | reset => exact resetMachine_inv hs

theorem runEvents_inv (es : List Event) {s : State} (hs : s.Inv) : (runEvents es s).Inv := by
  induction es generalizing s with
  | nil => exact hs
  | cons e rest ih => exact ih (e.next_inv hs)

/-! ### Raising an interrupt -/

theorem raiseInterrupt_of_lt {n : Nat} (h : n < 14) (s : State) :
    raiseInterrupt n s = s.withIflag (s.iflag ||| 1#16 <<< n) := if_pos h

theorem raiseInterrupt_of_not_lt {n : Nat} (h : ¬n < 14) (s : State) : raiseInterrupt n s = s := if_neg h

/-- Raising an interrupt changes IF alone (R424). -/
theorem raiseInterrupt_frame (n : Nat) (s : State) :
    raiseInterrupt n s = { s with iflag := (raiseInterrupt n s).iflag } := by
  by_cases h : n < 14
  · rw [raiseInterrupt_of_lt h]
    rfl
  · rw [raiseInterrupt_of_not_lt h]

theorem raiseInterrupt_iflag_getLsbD (n : Nat) (s : State) (j : Nat) :
    (raiseInterrupt n s).iflag.getLsbD j = (s.iflag.getLsbD j || decide (j = n ∧ n < 14)) := by
  by_cases h : n < 14
  · have bit : (1#16 <<< n).getLsbD j = decide (j = n) := by
      rw [← BitVec.twoPow_eq, BitVec.getLsbD_twoPow, decide_eq_true (show n < 16 by omega), Bool.true_and]
      exact decide_eq_decide.mpr eq_comm
    simp [raiseInterrupt_of_lt h, bit, h]
  · simp [raiseInterrupt_of_not_lt h, h]

/-- A source already raised stays as it is. -/
theorem raiseInterrupt_raiseInterrupt (n : Nat) (s : State) :
    raiseInterrupt n (raiseInterrupt n s) = raiseInterrupt n s := by
  by_cases h : n < 14
  · simp only [raiseInterrupt_of_lt h, State.withIflag, BitVec.or_assoc, BitVec.or_self]
  · rw [raiseInterrupt_of_not_lt h, raiseInterrupt_of_not_lt h]

/-- Settles O7: every event keeps the invariant, by induction on the sequence; a raise sets one bit of IF (R424). -/
theorem eventsKeepInv : Obligations.EventsKeepInv :=
  ⟨fun es _ hs => runEvents_inv es hs, fun source s =>
    ⟨(raiseInterrupt source s).iflag, fun j _ => raiseInterrupt_iflag_getLsbD source s j,
      raiseInterrupt_frame source s, raiseInterrupt_raiseInterrupt source s⟩⟩

end Sys2Proof.Machine

/-! PROOFS. The state over a step (`10_state.md`): reset, the fatal record, and what every step and every call of the
host keeps, from any state; the invariant is no premise here, so every instruction is followed again without it. -/

namespace Sys2Proof.Machine

/-! ### The invariant, reset and the fatal record -/

/-- Settles O6: `step_inv`, which follows the phases of R160. -/
theorem stepKeepsInv : Obligations.StepKeepsInv := fun _ _ hs h => step_inv hs h

/-- Settles O10: a fatal record ends the step before anything else (R160 step 0); reset clears it (R51). -/
theorem fatalStateStays : Obligations.FatalStateStays := by
  refine ⟨fun s h => ?_, rfl, fun _ => rfl⟩
  have ended : beginStep s = .over (s.withTally 0) := if_pos h
  unfold step
  rw [ended]
  rfl

/-- Settles O5: no memory byte is listed, no control bit is set, and 0xD3 is Supervisor mode in ARM state. -/
theorem resetInv : Obligations.ResetInv where
  memories := ⟨rfl, rfl, rfl, rfl, rfl, Nat.zero_le _⟩
  registers := ⟨rfl, rfl, rfl, rfl, rfl, by decide, by decide⟩
  mode := rfl
  pc := rfl
  noDma _ := rfl
  fatal _ h := nomatch h

/-- Settles O4: reset takes `State.initial`, whose vectors hold one value in every place (R55). -/
theorem resetState : Obligations.ResetState := by
  refine ⟨fun s => ⟨?gpr, rfl, rfl, ?spsr, rfl, rfl, rfl, rfl, rfl, ?timers, rfl, rfl, rfl, rfl, rfl, rfl, rfl,
    fun _ => ⟨rfl, rfl⟩, ?dma, rfl, rfl, rfl⟩, rfl, rfl⟩
  case gpr => exact fun _ => Vector.getElem_replicate _
  case spsr => exact fun m => ⟨Vector.getElem_replicate _, Vector.getElem_replicate _⟩
  case timers => exact fun k => Vector.getElem_replicate _
  case dma => exact fun x => Vector.getElem_replicate _

/-! ### What an instruction does, from any state

`exec_done` speaks of states that meet the invariant; the statements about the images, the log and the cycle total do
not ask for it. -/

theorem advanceArm_ran (s : State) : Ran s (advanceArm s) := ran_withPc ..

theorem advanceThumb_ran (s : State) : Ran s (advanceThumb s) := ran_withPc ..

theorem setReg_ran (s : State) (n : Reg) (v : Word) : Ran s (s.setReg n v) := (before_setReg ..).ran

theorem writePc_ran (t : Word) (s : State) : Ran s (writePc t s) := (writePc_done ..).ran

theorem writeArm_ran (rd : Reg) (v : Word) (s : State) : Ran s (writeArm rd v s) := by
  unfold writeArm
  split
  · exact writePc_ran ..
  · exact (setReg_ran ..).trans (advanceArm_ran _)

theorem writeThumb_ran (rd : Reg) (v : Word) (s : State) : Ran s (writeThumb rd v s) := by
  unfold writeThumb
  split
  · exact writePc_ran ..
  · exact (setReg_ran ..).trans (advanceThumb_ran _)

/-- A later write of the flags keeps the mode the instruction began in (R172). -/
theorem Ran.putFlags {s t : State} (h : Ran s t) (n z c v : Bool) : Ran s (t.withCpsr (putFlags s.cpsr n z c v)) :=
  h.withCpsr _ fun hv => by rw [putFlags_mode]; exact hv

theorem gated_ran {c : Cond} {effect : State → State} {s t : State} (h : gated c effect s = .next t)
    (he : Ran s (effect s)) : Ran s t := by
  unfold gated at h
  cases h
  split
  · exact he
  · exact (ran_logIf ..).trans (advanceArm_ran _)

theorem next_ran {s t u : State} (h : (.next u : Host.Outcome State Fault Refusal) = .next t) (hu : Ran s u) :
    Ran s t := by
  cases h
  exact hu

theorem enterException_ran {kind : ExceptionKind} (hk : kind ≠ .reset) (s : State) : Ran s (enterException kind s) :=
  (enterException_done hk s).ran

theorem illegal_ran {tag : Tag} (ht : illegalTag tag = true) (s : State) : Ran s (illegal tag s) := by
  unfold illegal
  split
  · exact ran_withFatal _ _ ‹_› ht
  · exact enterException_ran (by decide) s

/-! ### ARM -/

theorem finishDp_ran {s t : State} (sf : Bool) (rd : Reg) (r flags : Word) (h : Ran s t)
    (hf : ∀ u, Ran s u → Ran s (u.withCpsr flags)) : Ran s (finishDp sf rd r flags t) := by
  unfold finishDp
  split
  · refine Ran.trans ?_ (writePc_ran ..)
    split
    · exact h.trans (restoreCpsr_ran _)
    · exact h
  · refine Ran.trans ?_ (advanceArm_ran _)
    split
    · exact hf _ (h.trans (setReg_ran ..))
    · exact h.trans (setReg_ran ..)

section Arm

variable (s : State)

theorem logicalDp_ran (sf : Bool) (rd rn : Reg) (op2 : Operand2) (f : Word → Word → Word) :
    Ran s (logicalDp sf rd rn op2 f s) :=
  finishDp_ran _ _ _ _ (ran_charge ..) fun _ h => h.putFlags ..

theorem arithmeticDp_ran (sf : Bool) (rd rn : Reg) (op2 : Operand2) (f : Word → Word → Bool → Sum) :
    Ran s (arithmeticDp sf rd rn op2 f s) :=
  finishDp_ran _ _ _ _ (ran_charge ..) fun _ h => h.putFlags ..

theorem moveDp_ran (sf : Bool) (rd : Reg) (op2 : Operand2) (f : Word → Word) : Ran s (moveDp sf rd op2 f s) :=
  finishDp_ran _ _ _ _ (ran_charge ..) fun _ h => h.putFlags ..

theorem logicalTest_ran (rn : Reg) (op2 : Operand2) (f : Word → Word → Word) : Ran s (logicalTest rn op2 f s) :=
  ((ran_charge ..).putFlags ..).trans (advanceArm_ran _)

theorem arithmeticTest_ran (rn : Reg) (op2 : Operand2) (f : Word → Word → Sum) : Ran s (arithmeticTest rn op2 f s) :=
  ((ran_charge ..).putFlags ..).trans (advanceArm_ran _)

theorem mrsEffect_ran (p : StatusWord) (rd : Reg) : Ran s (mrsEffect p rd s) :=
  ((readStatus_before ..).ran.trans (ran_logIf ..)).trans (writeArm_ran ..)

theorem msr_ran (p : StatusWord) (fsxc : BitVec 4) (v : Word) : Ran s (advanceArm (msrWrite p fsxc v s)) :=
  (msrWrite_before ..).ran.trans (advanceArm_ran _)

theorem multiplyEffect_ran (sf : Bool) (rd rs rm : Reg) (acc : State → Word) (extra : Nat) (usesPc : Bool) :
    Ran s (multiplyEffect sf rd rs rm acc extra usesPc s) := by
  have logged := ((ran_logIf s (rd == rm) (.unpredictable .mulRdRm)).trans
    (ran_logIf _ usesPc (.unpredictable .mulR15))).trans (ran_charge _ (mulCycles (s.armReg rs) true + extra))
  unfold multiplyEffect
  refine Ran.trans ?_ (writeArm_ran ..)
  split
  · exact logged.putFlags ..
  · exact logged

theorem writeLong_ran (rd : Reg) (v : Word) : Ran s (writeLong rd v s) := by
  unfold writeLong
  split
  · exact writePc_ran ..
  · exact setReg_ran ..

theorem multiplyLongEffect_ran (signed acc sf : Bool) (rdHi rdLo rs rm : Reg) :
    Ran s (multiplyLongEffect signed acc sf rdHi rdLo rs rm s) := by
  have logged := ((ran_logIf s (rdHi == rdLo || rdHi == rm || rdLo == rm) (.unpredictable .mullOverlap)).trans
    (ran_logIf _ (rdHi == 15 || rdLo == 15 || rs == 15 || rm == 15) (.unpredictable .mullR15))).trans
    (ran_charge _ (mulCycles (s.armReg rs) signed + (if acc then 2 else 1)))
  have flagged : ∀ p : BitVec 64, ∀ t, Ran s t → Ran s (if sf then t.withCpsr (nzFlags64 s.cpsr p) else t) := by
    intro p t h
    split
    · exact h.putFlags ..
    · exact h
  have written : ∀ (lo hi : Word) (t : State), Ran s t → Ran s (writeLong rdHi hi (writeLong rdLo lo t)) :=
    fun lo hi t h => (h.trans (writeLong_ran ..)).trans (writeLong_ran ..)
  unfold multiplyLongEffect
  dsimp only
  split
  · exact written _ _ _ (flagged _ _ logged)
  · exact (written _ _ _ (flagged _ _ logged)).trans (advanceArm_ran _)

theorem loadEffect_ran {load : Word → State → Word × State} (hl : ∀ a t, Looked t (load a t).2) (ad : Addressed)
    (rn rd : Reg) (toPc : Option Reason) : Ran s (loadEffect load ad rn rd toPc s) := by
  have based := (((ran_logIf s ad.pcOffset (.unpredictable .offsetR15)).trans (hl ad.addr _).ran).trans
    (writeBack_before rn ad.offaddr ad.wb _).ran).trans (ran_charge _ 1)
  unfold loadEffect
  refine Ran.trans ?_ (writeArm_ran ..)
  split
  · exact based.trans (ran_logIf ..)
  · exact based

theorem storeEffect_ran {store : Word → Word → State → State} (hs : ∀ a v t, OnBus t (store a v t)) (ad : Addressed)
    (rn rd : Reg) : Ran s (storeEffect store ad rn rd s) :=
  (((ran_logIf ..).trans (hs _ _ _).ran).trans (writeBack_before ..).ran).trans (advanceArm_ran _)

theorem swapEffect_ran {load : Word → State → Word × State} {store : Word → Word → State → State}
    (hl : ∀ a t, Looked t (load a t).2) (hs : ∀ a v t, OnBus t (store a v t)) (rn rd rm : Reg) :
    Ran s (swapEffect load store rn rd rm s) :=
  ((((ran_logIf ..).trans (hl _ _).ran).trans (hs _ _ _).ran).trans (ran_charge ..)).trans (writeArm_ran ..)

theorem ldmEffect_ran (mode : BlockMode) (sbit w : Bool) (rn : Reg) (list : BitVec 16) :
    Ran s (ldmEffect mode sbit w rn list s) := by
  have loaded : ∀ user final bank regs start, Ran s
      ((loadBlock bank regs start (blockWriteBack w rn final (blockEvents user w rn s)) none).1.charge 1) :=
    fun _ _ _ _ _ => (((blockEvents_before ..).trans (blockWriteBack_before ..)).trans
      (loadBlock_before ..)).ran.trans (ran_charge ..)
  simp only [ldmEffect]
  split
  · refine Ran.trans ?_ (writePc_ran ..)
    split
    · exact (loaded ..).trans (restoreCpsr_ran _)
    · exact loaded ..
  · exact (loaded ..).trans (advanceArm_ran _)

theorem stmEffect_ran (mode : BlockMode) (sbit w : Bool) (rn : Reg) (list : BitVec 16) :
    Ran s (stmEffect mode sbit w rn list s) :=
  (((blockEvents_before ..).ran.trans (storeBlock_onBus ..).ran).trans (blockWriteBack_before ..).ran).trans
    (advanceArm_ran _)

theorem branchExchange_ran (target : Word) : Ran s (branchExchange target s) := (branchExchange_done ..).ran

theorem branchLink_ran (target r : Word) : Ran s (writePc target (s.setReg linkReg r)) := (branchLink_done ..).ran

end Arm

/-! ### THUMB -/

section Thumb

variable (s : State)

theorem thumbLogical_ran (rd : Option LoReg) (r : Word) (sc : Bool) : Ran s (thumbLogical rd r sc s) := by
  refine Ran.trans (Ran.putFlags ?_ ..) (advanceThumb_ran _)
  split
  · exact setReg_ran ..
  · exact .refl s

theorem thumbArithmetic_ran (rd : Option LoReg) (r : Sum) : Ran s (thumbArithmetic rd r s) := by
  refine Ran.trans (Ran.putFlags ?_ ..) (advanceThumb_ran _)
  split
  · exact setReg_ran ..
  · exact .refl s

theorem thumbShiftReg_ran (kind : ShiftKind) (rs rd : LoReg) : Ran s (thumbShiftReg kind rs rd s) :=
  by
  unfold thumbShiftReg
  exact (ran_charge s 1).trans (thumbLogical_ran ..)

theorem thumbShiftImm_ran (kind : ShiftKind) (imm5 : BitVec 5) (rs rd : LoReg) :
    Ran s (thumbShiftImm kind imm5 rs rd s) := by
  unfold thumbShiftImm
  exact thumbLogical_ran ..

theorem thumbSetReg_ran (rd : Reg) (v : Word) : Ran s (advanceThumb (s.setReg rd v)) :=
  (setReg_ran ..).trans (advanceThumb_ran _)

theorem thumbLoad_ran {load : Word → State → Word × State} (hl : ∀ a t, Looked t (load a t).2) (a : Word) (rd : LoReg) :
    Ran s (thumbLoad load a rd s) :=
  ((hl _ _).ran.trans (ran_charge ..)).trans (thumbSetReg_ran ..)

theorem thumbStore_ran {store : Word → Word → State → State} (hs : ∀ a v t, OnBus t (store a v t)) (a : Word)
    (rd : LoReg) : Ran s (thumbStore store a rd s) :=
  (hs _ _ _).ran.trans (advanceThumb_ran _)

theorem thumbStoreMultiple_ran (value : Nat → Reg → Word) (regs : List Reg) (start : Word) (base : Reg) (final : Word) :
    Ran s (thumbStoreMultiple value regs start base final s) := by
  refine Ran.trans ?_ (thumbSetReg_ran ..)
  split
  · exact (memWrite_onBus ..).ran
  · exact (storeBlock_onBus ..).ran

theorem thumbLoadMultiple_ran (regs : List Reg) (start : Word) (base : Reg) (final : Word) :
    Ran s (thumbLoadMultiple regs start base final s) := by
  have loaded : ∀ m regs, Ran s ((loadBlock m regs start (s.setReg base final) none).1.charge 1) := fun _ _ =>
    ((setReg_ran ..).trans (loadBlock_before ..).ran).trans (ran_charge ..)
  simp only [thumbLoadMultiple]
  split
  · exact (loaded ..).trans (writePc_ran ..)
  · exact (loaded ..).trans (advanceThumb_ran _)

theorem thumbBCond_ran (c : Cond) (target : Word) :
    Ran s (if condPassed s c then writePc target s else advanceThumb s) := by
  split
  · exact writePc_ran ..
  · exact advanceThumb_ran _

end Thumb

/-! ### All instructions -/

/-- Every instruction, from every state: the invariant is not needed. -/
theorem exec_ran {i : Instr} {s t : State} (h : exec i s = .next t) : Ran s t := by
  cases i <;> dsimp only [exec] at h
  case armAnd | armEor | armOrr | armBic => exact gated_ran h (logicalDp_ran ..)
  case armSub | armRsb | armAdd | armAdc | armSbc | armRsc => exact gated_ran h (arithmeticDp_ran ..)
  case armMov | armMvn => exact gated_ran h (moveDp_ran ..)
  case armTst | armTeq => exact gated_ran h (logicalTest_ran ..)
  case armCmp | armCmn => exact gated_ran h (arithmeticTest_ran ..)
  case armMul | armMla => exact gated_ran h (multiplyEffect_ran ..)
  case armUmull | armUmlal | armSmull | armSmlal => exact gated_ran h (multiplyLongEffect_ran ..)
  case armMrs | armMrsBit25 => exact gated_ran h (mrsEffect_ran ..)
  case armMsrReg | armMsrImm => exact gated_ran h (msr_ran ..)
  case armLdr | armLdrt => exact gated_ran h (loadEffect_ran _ loadWord_looked ..)
  case armLdrb | armLdrbt => exact gated_ran h (loadEffect_ran _ loadByte_looked ..)
  case armLdrh => exact gated_ran h (loadEffect_ran _ loadHalf_looked ..)
  case armLdrsb => exact gated_ran h (loadEffect_ran _ loadSignedByte_looked ..)
  case armLdrsh => exact gated_ran h (loadEffect_ran _ loadSignedHalf_looked ..)
  case armStr | armStrt => exact gated_ran h (storeEffect_ran _ storeWord_onBus ..)
  case armStrb | armStrbt => exact gated_ran h (storeEffect_ran _ storeByte_onBus ..)
  case armStrh => exact gated_ran h (storeEffect_ran _ storeHalf_onBus ..)
  case armSwp => exact gated_ran h (swapEffect_ran _ loadWord_looked storeWord_onBus ..)
  case armSwpb => exact gated_ran h (swapEffect_ran _ loadByte_looked storeByte_onBus ..)
  case armLdm => exact gated_ran h (ldmEffect_ran ..)
  case armStm => exact gated_ran h (stmEffect_ran ..)
  case armB => exact gated_ran h (writePc_ran ..)
  case armBl => exact gated_ran h (branchLink_ran ..)
  case armBx => exact gated_ran h (branchExchange_ran ..)
  case armSwi => exact gated_ran h (enterException_ran (by decide) _)
  case armBkpt | armUndMulSwap | armUndLdrdStrd | armUnd | armLdc | armStc | armCdp | armMrc | armMcr =>
    exact gated_ran h (illegal_ran rfl _)
  case thumbUndCond | thumbBkpt | thumbUnd1011 | thumbUndBlxReg | thumbUndBlxSuffix =>
    exact next_ran h (illegal_ran rfl _)
  case thumbSwi => exact next_ran h (enterException_ran (by decide) _)
  case thumbBCond => exact next_ran h (thumbBCond_ran ..)
  case thumbB => exact next_ran h (writePc_ran ..)
  case thumbBlSecond => exact next_ran h (branchLink_ran ..)
  case thumbBx => exact next_ran h ((ran_logIf ..).trans (branchExchange_ran ..))
  case thumbBlFirst | thumbAddSpImm | thumbAddSpNegImm | thumbAddPc | thumbAddSp =>
    exact next_ran h (thumbSetReg_ran ..)
  case thumbAddReg | thumbSubReg | thumbAddImm3 | thumbSubImm3 | thumbCmpImm | thumbAddImm8 | thumbSubImm8 | thumbAdc |
      thumbSbc | thumbNeg | thumbCmpReg | thumbCmn => exact next_ran h (thumbArithmetic_ran ..)
  case thumbLslImm | thumbLsrImm | thumbAsrImm => exact next_ran h (thumbShiftImm_ran ..)
  case thumbMovImm | thumbAnd | thumbEor | thumbTst | thumbOrr | thumbBic |
      thumbMvn => exact next_ran h (thumbLogical_ran ..)
  case thumbMul => exact next_ran h ((ran_charge ..).trans (thumbLogical_ran ..))
  case thumbLslReg | thumbLsrReg | thumbAsrReg | thumbRorReg => exact next_ran h (thumbShiftReg_ran ..)
  case thumbAddHigh | thumbMovHigh => exact next_ran h ((ran_logIf ..).trans (writeThumb_ran ..))
  case thumbCmpHigh => exact next_ran h ((ran_logIf ..).trans (thumbArithmetic_ran ..))
  case thumbLdrPc => exact next_ran h (thumbLoad_ran _ (memRead_looked .word) ..)
  case thumbLdrReg | thumbLdrImm | thumbLdrSp => exact next_ran h (thumbLoad_ran _ loadWord_looked ..)
  case thumbLdrbReg | thumbLdrbImm => exact next_ran h (thumbLoad_ran _ loadByte_looked ..)
  case thumbLdrhReg | thumbLdrhImm => exact next_ran h (thumbLoad_ran _ loadHalf_looked ..)
  case thumbLdsbReg => exact next_ran h (thumbLoad_ran _ loadSignedByte_looked ..)
  case thumbLdshReg => exact next_ran h (thumbLoad_ran _ loadSignedHalf_looked ..)
  case thumbStrReg | thumbStrImm | thumbStrSp => exact next_ran h (thumbStore_ran _ storeWord_onBus ..)
  case thumbStrbReg | thumbStrbImm => exact next_ran h (thumbStore_ran _ storeByte_onBus ..)
  case thumbStrhReg | thumbStrhImm => exact next_ran h (thumbStore_ran _ storeHalf_onBus ..)
  case thumbPush | thumbStmia => exact next_ran h (thumbStoreMultiple_ran ..)
  case thumbPop | thumbLdmia => exact next_ran h (thumbLoadMultiple_ran ..)


/-! ### The timers change the timers -/

/-- The timers and IF change, and nothing else. -/
def Ticked (s t : State) : Prop := t = { s with timers := t.timers, iflag := t.iflag }

theorem Ticked.refl (s : State) : Ticked s s := rfl

theorem Ticked.trans {s t u : State} (h : Ticked s t) (k : Ticked t u) : Ticked s u := by
  unfold Ticked at *
  rw [k, h]

theorem Ticked.tally {s t : State} (h : Ticked s t) : t.tally = s.tally := by
  rw [h]

theorem withTimer_ticked (s : State) (k : Fin 4) (t : Timer) : Ticked s (s.withTimer k t) := rfl

theorem raiseInterrupt_ticked (n : Nat) (s : State) : Ticked s (raiseInterrupt n s) := by
  unfold Ticked
  rw [raiseInterrupt_frame]

theorem overflowTimer_ticked (k : Fin 4) (s : State) : Ticked s (overflowTimer k s) := by
  simp only [overflowTimer]
  split
  · exact (withTimer_ticked ..).trans (raiseInterrupt_ticked ..)
  · exact withTimer_ticked ..

theorem incrementFrom_ticked (ks : List (Fin 4)) (s : State) : Ticked s (incrementFrom ks s) := by
  induction ks generalizing s with
  | nil => exact .refl s
  | cons k rest ih =>
    simp only [incrementFrom]
    split
    · split
      · exact overflowTimer_ticked ..
      · split
        · exact (overflowTimer_ticked ..).trans (ih _)
        · exact overflowTimer_ticked ..
    · exact withTimer_ticked ..

theorem tickChannel_ticked (k : Fin 4) (s : State) : Ticked s (tickChannel k s) := by
  simp only [tickChannel]
  split
  · split
    · exact (withTimer_ticked ..).trans (incrementFrom_ticked ..)
    · exact withTimer_ticked ..
  · exact .refl s

theorem timerTick_ticked (s : State) : Ticked s (timerTick s) :=
  (((tickChannel_ticked ..).trans (tickChannel_ticked ..)).trans (tickChannel_ticked ..)).trans (tickChannel_ticked ..)

theorem timerAdvance_ticked (n : Nat) (s : State) : Ticked s (timerAdvance n s) := by
  induction n generalizing s with
  | zero => exact .refl s
  | succ n ih => exact (timerTick_ticked s).trans (ih _)

/-! ### What every step and every event keeps -/

/-- The parameters and the images stay (R54, R85), the log only grows (R50). -/
structure Lasting (s t : State) : Prop where
  params : t.params = s.params
  bios : t.bios = s.bios
  rom : t.rom = s.rom
  diag : ∃ l, t.diag = s.diag ++ l

/-- What lasts, and `n` cycles added to the total (R52). -/
structure Accounted (n : Nat) (s t : State) : Prop extends Lasting s t where
  cycles : t.cyclesTotal = s.cyclesTotal + n

theorem Ran.lasting {s t : State} (h : Ran s t) : Lasting s t := ⟨h.params, h.bios, h.rom, h.diag⟩

theorem Ran.accounted {s t : State} (h : Ran s t) : Accounted 0 s t := ⟨h.lasting, h.cyclesTotal⟩

theorem Lasting.trans {s t u : State} (h : Lasting s t) (k : Lasting t u) : Lasting s u where
  params := k.params.trans h.params
  bios := k.bios.trans h.bios
  rom := k.rom.trans h.rom
  diag := by
    obtain ⟨l, hl⟩ := h.diag
    obtain ⟨m, hm⟩ := k.diag
    exact ⟨l ++ m, by rw [hm, hl, List.append_assoc]⟩

theorem Accounted.trans {m n : Nat} {s t u : State} (h : Accounted m s t) (k : Accounted n t u) :
    Accounted (m + n) s u :=
  ⟨h.toLasting.trans k.toLasting, by rw [k.cycles, h.cycles, Nat.add_assoc]⟩

/-- An update of the fields that only the step itself writes, the total left out. -/
theorem accounted_of_counters {s t : State}
    (h : t = { s with tally := t.tally, drawCount := t.drawCount, ir := t.ir, lastIrq := t.lastIrq }) :
    Accounted 0 s t := by
  rw [h]
  exact ⟨⟨rfl, rfl, rfl, [], (List.append_nil _).symm⟩, rfl⟩

theorem countDraw_accounted (s : State) : Accounted 0 s (countDraw s) := by
  refine accounted_of_counters ?_
  unfold countDraw
  split <;> rfl

/-- The accounting adds the count it returns (R160 step 9); the timers leave both (R453). -/
theorem accountStep_accounted (s : State) : Accounted (accountStep s).tally s (accountStep s) := by
  have ticks := timerAdvance_ticked (stepCycles s)
    (((countDraw s).withTally (stepCycles s)).withCyclesTotal (s.cyclesTotal + stepCycles s))
  have counted : Accounted (stepCycles s) s
      (((countDraw s).withTally (stepCycles s)).withCyclesTotal (s.cyclesTotal + stepCycles s)) :=
    ⟨(countDraw_accounted s).toLasting.trans ⟨rfl, rfl, rfl, [], (List.append_nil _).symm⟩, rfl⟩
  have tally : (accountStep s).tally = stepCycles s := ticks.tally
  rw [tally]
  exact counted.trans (timerAdvance_onBus ..).ran.accounted

theorem Accounted.accountStep {s t : State} (h : Accounted 0 s t) :
    Accounted (accountStep t).tally s (accountStep t) := by
  simpa using h.trans (accountStep_accounted t)

/-- The end of an instruction: a fatal decode failure returns 0 and adds nothing (R160 step 7). -/
theorem Accounted.finishStep {s t : State} (h : Accounted 0 s t) : Accounted (finishStep t).tally s (finishStep t) := by
  unfold Machine.finishStep
  split
  · exact h.trans (accounted_of_counters rfl)
  · exact h.accountStep

/-- What comes before the instruction accounts for the step it ends, and adds nothing to one that goes on. -/
def StepPhase.AccountedFrom (s : State) : StepPhase → Prop
  | .over t => Accounted t.tally s t
  | .run _ t => Accounted 0 s t

theorem takeIrq_accounted (s : State) : Accounted 0 s (takeIrq s) :=
  (accounted_of_counters rfl).trans (enterException_ran (by decide) _).accounted

theorem beginInstruction_accounted {s t : State} (h : Accounted 0 s t) : (beginInstruction t).AccountedFrom s := by
  unfold beginInstruction
  split
  · exact (h.trans (takeIrq_accounted t)).accountStep
  · exact (h.trans (fetch_looked t).ran.accounted).trans (accounted_of_counters rfl)

theorem beginStep_accounted (s : State) : (beginStep s).AccountedFrom s := by
  have started : Accounted 0 s (s.withTally 0) := (ran_withTally ..).accounted
  simp only [beginStep]
  split
  · exact started
  · split
    · exact (started.trans (dmaTick_onBus ‹_›).ran.accounted).accountStep
    · split
      · split
        · exact (started.trans (ran_withTally ..).accounted).accountStep
        · exact beginInstruction_accounted (started.trans (ran_withHalted ..).accounted)
      · exact beginInstruction_accounted started

/-- A step, from any state (R160). -/
theorem step_accounted {s t : State} (h : step s = .next t) : Accounted t.tally s t := by
  have phase := beginStep_accounted s
  unfold step at h
  split at h
  · rename_i hover
    rw [hover] at phase
    cases h
    exact phase
  · rename_i hrun
    rw [hrun] at phase
    split at h
    · cases h
      exact (phase.trans (exec_ran ‹_›).accounted).finishStep
    · cases h
    · cases h

/-- A reset keeps the parameters, the images and the log as it is (R55, R50). -/
theorem resetMachine_lasting (s : State) : Lasting s (resetMachine s) := ⟨rfl, rfl, rfl, [], (List.append_nil _).symm⟩

/-- Every event, from any state (R6). -/
theorem Event.next_lasting (e : Event) (s : State) : Lasting s (e.next s) := by
  cases e with
  | step =>
    simp only [Event.next]
    cases h : Machine.step s with
    | next t => exact (step_accounted h).toLasting
    | fault r => exact (Ran.refl s).lasting
    | refused r => exact (Ran.refl s).lasting
  | raise source => exact (raiseInterrupt_onBus source s).ran.lasting
  | read w a => exact ((memRead_looked ..).ran.trans (ran_withTally ..)).lasting
  | write w a v => exact ((memWrite_onBus ..).ran.trans (ran_withTally ..)).lasting
  | scanline e => exact (hostScanline_onBus e s).ran.lasting
  | dmaSpecial x => exact (hostDmaSpecial_onBus x s).ran.lasting
  | reset => exact resetMachine_lasting s

/-- Settles O15, by `step_accounted`. -/
theorem cyclesAccounted : Obligations.CyclesAccounted := fun _ _ h => (step_accounted h).cycles

/-- Settles O16, by `Event.next_lasting`. -/
theorem imagesKept : Obligations.ImagesKept := fun e s =>
  let ⟨params, bios, rom, _⟩ := e.next_lasting s
  ⟨params, bios, rom⟩

/-- Settles O17, by `Event.next_lasting`; a reset appends nothing. -/
theorem logOnlyGrows : Obligations.LogOnlyGrows := fun e s =>
  ⟨(e.next_lasting s).diag, fun h => by rw [h]; rfl⟩

end Sys2Proof.Machine

/-! PROOFS. The register banks (R21, R22) and the status word (R32). -/

namespace Sys2Proof.Machine

/-! ### Register banks -/

/-- The row of a mode's r13 and r14 among the stack banks; User and System share one (R21). -/
def Mode.stackRow : Mode → Nat
  | .usr | .sys => 0
  | .fiq => 1
  | .irq => 2
  | .svc => 3
  | .abt => 4
  | .und => 5

theorem Mode.stackRow_eq_iff {m q : Mode} :
    m.stackRow = q.stackRow ↔ m = q ∨ (m = .usr ∨ m = .sys) ∧ (q = .usr ∨ q = .sys) := by
  cases m <;> cases q <;> decide

/-- How far the places of r8 to r12 lie from those outside FIQ mode (R21). -/
def Mode.highOffset (m : Mode) : Nat := if m = .fiq then 5 else 0

theorem Mode.highOffset_eq_iff {m q : Mode} : m.highOffset = q.highOffset ↔ (m = .fiq ↔ q = .fiq) := by
  cases m <;> cases q <;> decide

/-- r0 to r7 have one place (R22). -/
theorem gprSlot_low {n : Reg} (h : n.val ≤ 7) (m : Mode) : (gprSlot n m).val = n.val := by
  have bank : bankOf n m = .common := if_pos (.inl h)
  simp only [gprSlot, bank, bankOffset, Fin.val_ofNat]
  omega

/-- r8 to r12 have a second place in FIQ mode (R22). -/
theorem gprSlot_high {n : Reg} (h : 7 < n.val) (h' : n.val ≤ 12) (m : Mode) :
    (gprSlot n m).val = n.val + m.highOffset := by
  have bank : bankOffset (bankOf n m) = m.highOffset := by
    unfold bankOf
    rw [if_neg (by omega), if_pos h']
    cases m <;> rfl
  have offset : m.highOffset ≤ 5 := by cases m <;> decide
  simp only [gprSlot, bank, Fin.val_ofNat]
  omega

/-- r13 and r14 have a place in each stack bank (R22). -/
theorem gprSlot_stack {n : Reg} (h : 12 < n.val) (h' : n.val ≤ 14) (m : Mode) :
    (gprSlot n m).val = n.val + 5 + 2 * m.stackRow := by
  have bank : bankOffset (bankOf n m) = 5 + 2 * m.stackRow := by
    unfold bankOf
    rw [if_neg (by omega), if_neg (by omega)]
    cases m <;> rfl
  have row : m.stackRow ≤ 5 := by cases m <;> decide
  simp only [gprSlot, bank, Fin.val_ofNat]
  omega

/-- Where the place of a register lies, by its range. -/
theorem gprSlot_ranges {n : Reg} (h : n ≠ 15) (m : Mode) :
    n.val ≤ 7 ∧ (gprSlot n m).val = n.val ∨
    (7 < n.val ∧ n.val ≤ 12) ∧ (gprSlot n m).val = n.val + m.highOffset ∨
    (12 < n.val ∧ n.val ≤ 14) ∧ (gprSlot n m).val = n.val + 5 + 2 * m.stackRow := by
  have below : n.val ≤ 14 := by
    have := Fin.val_ne_of_ne h
    omega
  by_cases low : n.val ≤ 7
  · exact .inl ⟨low, gprSlot_low low m⟩
  · by_cases high : n.val ≤ 12
    · exact .inr (.inl ⟨⟨by omega, high⟩, gprSlot_high (by omega) high m⟩)
    · exact .inr (.inr ⟨⟨by omega, below⟩, gprSlot_stack (by omega) below m⟩)

/-- Two names are one storage exactly when the numbers are equal and the modes select one bank (R22). -/
theorem gprSlot_eq_iff {n k : Reg} (hn : n ≠ 15) (hk : k ≠ 15) (m q : Mode) :
    gprSlot n m = gprSlot k q ↔
      n = k ∧ (n.val ≤ 7 ∨ n.val ≤ 12 ∧ m.highOffset = q.highOffset ∨ 12 < n.val ∧ m.stackRow = q.stackRow) := by
  have offsets : ∀ m : Mode, m.highOffset = 0 ∨ m.highOffset = 5 := fun m => by cases m <;> decide
  have hm := offsets m
  have hq := offsets q
  have rn := gprSlot_ranges hn m
  have rk := gprSlot_ranges hk q
  rw [Fin.ext_iff, Fin.ext_iff]
  omega

theorem bankReg_of_ne {n : Reg} (h : n ≠ 15) (s : State) (m : Mode) : s.bankReg n m = s.gpr[gprSlot n m] := if_neg h

/-- A write through a bank is read back through every name of its place, and nowhere else (R22). -/
theorem bankReg_setBankReg {n k : Reg} (hn : n ≠ 15) (hk : k ≠ 15) (s : State) (m q : Mode) (v : Word) :
    (s.setBankReg n m v).bankReg k q = if gprSlot n m = gprSlot k q then v else s.bankReg k q := by
  rw [bankReg_of_ne hk, bankReg_of_ne hk, State.setBankReg, if_neg hn]
  simp only [State.withGpr, Fin.getElem_fin, Vector.getElem_set, Fin.ext_iff]

theorem reg_eq (s : State) (ahead : Nat) (n : Reg) :
    s.reg ahead n = if n = 15 then s.pc + BitVec.ofNat 32 ahead else s.gpr[gprSlot n s.mode] := by
  unfold State.reg
  split
  · rfl
  · exact bankReg_of_ne ‹_› ..

/-- Settles O19: the place of each register by its range (R22), and what r15 reads (R26). -/
theorem registerBanks : Obligations.RegisterBanks := by
  refine ⟨fun n k m q hn hk => ?_, fun s n k m q v hn hk => bankReg_setBankReg hn hk s m q v, fun s n =>
    ⟨reg_eq s 8 n, reg_eq s 4 n⟩⟩
  rw [← Mode.stackRow_eq_iff, ← Mode.highOffset_eq_iff]
  exact gprSlot_eq_iff hn hk m q

/-! ### Writes of the status word -/

/-- The seven mode codes (R31). -/
theorem validMode_iff (b : BitVec 5) :
    validMode b = true ↔ b ∈ [0x10#5, 0x11#5, 0x12#5, 0x13#5, 0x17#5, 0x1B#5, 0x1F#5] := by
  revert b
  decide

theorem putThumb_getLsbD (w : Word) (t : Bool) {j : Nat} (h : j < 32) :
    (putThumb w t).getLsbD j = if j = 5 then t else w.getLsbD j := by
  unfold putThumb
  simp only [BitVec.getLsbD_append, BitVec.getLsbD_extractLsb', BitVec.getLsbD_ofBool]
  grind

theorem flagByte_getLsbD {j : Nat} (h : j < 32) : (0xFF000000#32).getLsbD j = decide (24 ≤ j) := by
  revert j
  decide

/-- A masked merge, bit by bit. -/
theorem merge_getLsbD (old new mask : Word) {j : Nat} (h : j < 32) :
    (old &&& ~~~mask ||| new &&& mask).getLsbD j = if mask.getLsbD j = true then new.getLsbD j else old.getLsbD j := by
  simp only [BitVec.getLsbD_or, BitVec.getLsbD_and, BitVec.getLsbD_not, h]
  cases mask.getLsbD j <;> simp

/-- The word `WriteCPSR` merges, bit by bit (R32). -/
theorem mergedCpsr_getLsbD (new mask : Word) (fromMsr : Bool) (s : State) {j : Nat} (h : j < 32) :
    (mergedCpsr new mask fromMsr s).getLsbD j =
      if fromMsr = true ∧ j = 5 then s.cpsr.getLsbD 5
      else if mask.getLsbD j = true ∧ (s.mode = .usr ∧ fromMsr = true → 24 ≤ j) then new.getLsbD j
      else s.cpsr.getLsbD j := by
  unfold mergedCpsr
  cases fromMsr with
  | true =>
    have reach : (if s.mode = .usr then mask &&& 0xFF000000#32 else mask).getLsbD j = true ↔
        mask.getLsbD j = true ∧ (s.mode = .usr → 24 ≤ j) := by
      split
      · rename_i user
        simp only [BitVec.getLsbD_and, flagByte_getLsbD h, Bool.and_eq_true, decide_eq_true_eq, user, true_imp_iff]
      · rename_i other
        simp only [other, false_imp_iff, and_true]
    simp only [if_true, and_true, true_and, putThumb_getLsbD _ _ h, merge_getLsbD _ _ _ h, reach, State.thumb]
  | false => simp [merge_getLsbD _ _ _ h]

theorem writeCpsr_of_valid {new mask : Word} {fromMsr : Bool} {s : State}
    (h : validMode ((mergedCpsr new mask fromMsr s).extractLsb' 0 5) = true) :
    writeCpsr new mask fromMsr s = s.withCpsr (mergedCpsr new mask fromMsr s) := if_pos h

theorem writeCpsr_of_invalid {new mask : Word} {fromMsr : Bool} {s : State}
    (h : ¬validMode ((mergedCpsr new mask fromMsr s).extractLsb' 0 5) = true) :
    writeCpsr new mask fromMsr s =
      (s.log (.invalidModeWrite ((mergedCpsr new mask fromMsr s).extractLsb' 0 5))).withCpsr
        (putMode (mergedCpsr new mask fromMsr s) s.modeCode) := if_neg h

/-- Settles O25: the merged word is `mergedCpsr`. -/
theorem statusWrite : Obligations.StatusWrite := fun new mask fromMsr s =>
  ⟨mergedCpsr new mask fromMsr s, fun _ h => mergedCpsr_getLsbD new mask fromMsr s h,
    fun h => writeCpsr_of_valid ((validMode_iff _).mpr h),
    fun h => writeCpsr_of_invalid fun valid => h ((validMode_iff _).mp valid)⟩

end Sys2Proof.Machine

/-! PROOFS. Stores to the register cells (`20_memory.md` R90 to R95): an access within the cells that are always there
is accounted once and runs their hooks, and nothing else. -/

namespace Sys2Proof.Machine

/-! ### Stores to the register cells -/

/-- No cell of the DMA engine reaches the timers' addresses (R38, R463). -/
theorem dmaCells_below {cell : Cell} (h : cell ∈ dmaCells) : cell.base + cell.width ≤ 0x04000100 := by
  revert cell
  decide

/-- From the timers' addresses up, an access overlaps the cells that are always there and no other. -/
theorem filter_overlaps_allCells (p : Config.Params) {a : Nat} (h : 0x04000100 ≤ a) (n : Nat) :
    (allCells p).filter (·.overlaps a n) = coreCells.filter (·.overlaps a n) := by
  have none : dmaCells.filter (·.overlaps a n) = [] := by
    refine List.filter_eq_nil_iff.mpr fun cell hc => ?_
    have := dmaCells_below hc
    simp only [Cell.overlaps, Bool.and_eq_true, decide_eq_true_eq]
    omega
  unfold allCells
  split
  · rw [List.filter_append, none, List.nil_append]
  · rfl

theorem cellAt_isSome_of_core (p : Config.Params) {a : Nat} (h : coreCells.any (·.covers a) = true) :
    (cellAt p a).isSome = true := by
  obtain ⟨cell, hc, covers⟩ := List.any_eq_true.mp h
  refine List.find?_isSome.mpr ⟨cell, ?_, covers⟩
  unfold allCells
  split
  · exact List.mem_append_right _ hc
  · exact hc

/-- Cells that an access does not overlap run no hook (R93). -/
theorem writeCells_filter (a n : Nat) (v : Word) (cells : List Cell) (s : State) :
    writeCells a n v cells s = writeCells a n v (cells.filter (·.overlaps a n)) s := by
  induction cells generalizing s with
  | nil => rfl
  | cons cell rest ih =>
    rw [writeCells, ih, List.filter_cons]
    split
    · rw [writeCells, if_pos ‹_›]
    · rfl

/-- Every byte of an access is a byte of a register cell that is always there. -/
def coreAccess (w : Width) (a : Word) : Bool :=
  decide (0x04000100 ≤ a.toNat ∧ a.toNat < 0x04000400) &&
    (List.range w.size).all fun i => coreCells.any (·.covers (a + BitVec.ofNat 32 i).toNat)

section CoreAccess

variable {w : Width} {a : Word} (h : coreAccess w a = true)
include h

theorem coreAccess_range : 0x04000100 ≤ a.toNat ∧ a.toNat < 0x04000400 :=
  of_decide_eq_true (Bool.and_eq_true_iff.mp h).1

theorem coreAccess_cellAt (p : Config.Params) {i : Nat} (hi : i < w.size) :
    (cellAt p (a + BitVec.ofNat 32 i).toNat).isSome = true :=
  cellAt_isSome_of_core p (List.all_eq_true.mp (Bool.and_eq_true_iff.mp h).2 i (List.mem_range.mpr hi))

theorem coreAccess_device (p : Config.Params) : device p a = .io := by
  have cell : (cellAt p a.toNat).isSome = true := by
    have := coreAccess_cellAt h p (i := 0) (by cases w <;> decide)
    rwa [BitVec.add_zero] at this
  obtain ⟨lo, hi⟩ := coreAccess_range h
  simp only [device, Config.biosSize, cell, if_true]
  rw [if_neg (by omega), if_neg (by omega), if_neg (by omega)]

/-- No byte of the access goes to another device (R93). -/
theorem coreAccess_ioOuterWrites (v : Word) (s : State) {n : Nat} (hn : n ≤ w.size) : ioOuterWrites a v n s = s := by
  induction n with
  | zero => rfl
  | succ n ih =>
    simp only [ioOuterWrites, ih (by omega), coreAccess_cellAt h s.params (show n < w.size by omega), if_true]

theorem coreAccess_ioOuterPeek (s : State) {n : Nat} (hn : n ≤ w.size) : ioOuterPeek s a n = 0 := by
  induction n with
  | zero => rfl
  | succ n ih =>
    simp only [ioOuterPeek, ih (by omega), coreAccess_cellAt h s.params (show n < w.size by omega), if_true]

/-- The access is accounted once, at 1 (R101). -/
theorem coreAccess_accessed (s : State) : s.accessed w a = account a w.size 1 s := by
  have native : ∀ seq, nativePeek s w a seq = some 1 := fun seq => by
    simp only [nativePeek, coreAccess_device h, coreAccess_ioOuterPeek h s (Nat.le_refl _)]
  have cost : ∀ seq, peekCost s w a seq = 1 := fun seq => by
    have := native seq
    cases w <;> simp only [peekCost, this, Option.getD_some]
  simp only [State.accessed, cost]
  rfl

/-- The store runs the hooks of the cells it overlaps (R93). -/
theorem coreAccess_memWrite (v : Word) (s : State) :
    memWrite w a v s = writeCells a.toNat w.size v (coreCells.filter (·.overlaps a.toNat w.size)) (s.accessed w a) := by
  have native : nativeWrite w a v s = some (ioWrite w a v s) := by
    simp only [nativeWrite, coreAccess_device h]
  have io : memWrite w a v s = ioWrite w a v s := by
    cases w <;> simp only [memWrite, write8, write16, write32, native, Option.getD_some]
  rw [io, ioWrite, coreAccess_ioOuterWrites h _ _ (Nat.le_refl _), writeCells_filter,
    filter_overlaps_allCells _ (coreAccess_range h).1, coreAccess_accessed h]

/-- A store that overlaps one cell runs that cell's hook. -/
theorem memWrite_of_cell {cell : Cell} (hc : coreCells.filter (·.overlaps a.toNat w.size) = [cell]) (v : Word)
    (s : State) : memWrite w a v s = cell.onWrite (toLanes cell.base a.toNat v)
      (toLanes cell.base a.toNat (byteMask w.size) &&& byteMask cell.width) (s.accessed w a) := by
  have found : cell ∈ coreCells.filter (·.overlaps a.toNat w.size) := by
    rw [hc]
    exact List.mem_singleton_self cell
  obtain ⟨_, overlap⟩ := List.mem_filter.mp found
  rw [coreAccess_memWrite h, hc, writeCells, if_pos overlap, writeCells]

/-- A store of a cell's own address and width runs its hook on the value stored. -/
theorem memWrite_of_whole_cell {cell : Cell} (hc : coreCells.filter (·.overlaps a.toNat w.size) = [cell])
    (hb : cell.base = a.toNat) (hw : cell.width = w.size) (v : Word) (s : State) :
    memWrite w a v s = cell.onWrite v (byteMask w.size) (s.accessed w a) := by
  have lanes : ∀ x : Word, toLanes a.toNat a.toNat x = x := fun x => by
    rw [toLanes, if_pos (Nat.le_refl _), Nat.sub_self, Nat.mul_zero, BitVec.ushiftRight_zero]
  rw [memWrite_of_cell h hc, hb, lanes, lanes, hw, BitVec.and_self]

end CoreAccess

/-- The write hook under a full mask (R92). -/
theorem mergeMasked_allOnes {n : Nat} (raw wmask v : BitVec n) :
    mergeMasked raw wmask v (BitVec.allOnes n) = raw &&& ~~~wmask ||| v &&& wmask := by
  rw [mergeMasked, BitVec.allOnes_and, BitVec.and_allOnes]

/-- IE (R39). -/
theorem memWrite_ie (v : Word) (s : State) :
    memWrite .half 0x04000200 v s = { s.accessed .half 0x04000200 with
      ie := s.ie &&& 0xC000#16 ||| v.setWidth 16 &&& 0x3FFF#16 } := by
  rw [memWrite_of_whole_cell (cell := .ie) (by decide) (by decide) rfl rfl]
  exact congrArg (State.withIe _) (mergeMasked_allOnes ..)

/-- IF: a 1 clears the bit (R40). -/
theorem memWrite_iflag (v : Word) (s : State) :
    memWrite .half 0x04000202 v s = { s.accessed .half 0x04000202 with iflag := s.iflag &&& ~~~(v.setWidth 16) } := by
  rw [memWrite_of_whole_cell (cell := .iflag) (by decide) (by decide) rfl rfl]
  exact congrArg (fun x => State.withIflag _ (s.iflag &&& ~~~x)) (BitVec.and_allOnes ..)

theorem highLane (v : Word) :
    (v <<< 8).setWidth 16 &&& 0xFF00#16 = (v.setWidth 8).setWidth 16 <<< 8 := by
  apply BitVec.eq_of_getLsbD_eq
  intro i hi
  have mask : (0xFF00#16).getLsbD i = decide (8 ≤ i) := by
    revert i
    decide
  simp only [BitVec.getLsbD_and, BitVec.getLsbD_setWidth, BitVec.getLsbD_shiftLeft, mask]
  grind

/-- IF by its high byte lane (R93). -/
theorem memWrite_iflag_high (v : Word) (s : State) :
    memWrite .byte 0x04000203 v s = { s.accessed .byte 0x04000203 with
      iflag := s.iflag &&& ~~~((v.setWidth 8).setWidth 16 <<< 8) } := by
  rw [memWrite_of_cell (cell := .iflag) (by decide) (by decide)]
  exact congrArg (fun x => State.withIflag _ (s.iflag &&& ~~~x)) (highLane v)

theorem highHalf (v : Word) : (v >>> 16).setWidth 16 &&& BitVec.allOnes 16 = v.extractLsb' 16 16 := by
  rw [BitVec.and_allOnes]
  apply BitVec.eq_of_getLsbD_eq
  intro i hi
  simp only [BitVec.getLsbD_setWidth, BitVec.getLsbD_ushiftRight, BitVec.getLsbD_extractLsb']

/-- IE and IF in one word (R93). -/
theorem memWrite_ie_iflag (v : Word) (s : State) :
    memWrite .word 0x04000200 v s = { s.accessed .word 0x04000200 with
      ie := s.ie &&& 0xC000#16 ||| v.setWidth 16 &&& 0x3FFF#16
      iflag := s.iflag &&& ~~~(v.extractLsb' 16 16) } := by
  have cells : coreCells.filter (·.overlaps (0x04000200 : Word).toNat Width.word.size) = [.ie, .iflag] := by decide
  rw [coreAccess_memWrite (by decide), cells]
  have ie : mergeMasked s.ie 0x3FFF#16 (v.setWidth 16) (BitVec.allOnes 16) =
      s.ie &&& 0xC000#16 ||| v.setWidth 16 &&& 0x3FFF#16 := mergeMasked_allOnes ..
  rw [← ie, ← highHalf v]
  rfl

/-- WAITCNT (R42). -/
theorem memWrite_waitcnt (v : Word) (s : State) :
    memWrite .half 0x04000204 v s = { s.accessed .half 0x04000204 with
      waitcnt := s.waitcnt &&& 0xA000#16 ||| v.setWidth 16 &&& 0x5FFF#16 } := by
  rw [memWrite_of_whole_cell (cell := .waitcnt) (by decide) (by decide) rfl rfl]
  exact congrArg (State.withWaitcnt _) (mergeMasked_allOnes ..)

/-- IME (R41). -/
theorem memWrite_ime (v : Word) (s : State) :
    memWrite .word 0x04000208 v s = { s.accessed .word 0x04000208 with
      ime := s.ime &&& 0xFFFFFFFE#32 ||| v &&& 1#32 } := by
  rw [memWrite_of_whole_cell (cell := .ime) (by decide) (by decide) rfl rfl]
  exact congrArg (State.withIme _) (mergeMasked_allOnes ..)

/-- POSTFLG (R44). -/
theorem memWrite_postflg (v : Word) (s : State) :
    memWrite .byte 0x04000300 v s = { s.accessed .byte 0x04000300 with
      postflg := s.postflg &&& 0xFE#8 ||| v.setWidth 8 &&& 1#8 } := by
  rw [memWrite_of_whole_cell (cell := .postflg) (by decide) (by decide) rfl rfl]
  exact congrArg (State.withPostflg _) (mergeMasked_allOnes ..)

/-- HALTCNT: any store halts (R43). -/
theorem memWrite_haltcnt (v : Word) (s : State) :
    memWrite .byte 0x04000301 v s = { s.accessed .byte 0x04000301 with halted := true } := by
  rw [memWrite_of_whole_cell (cell := .haltcnt) (by decide) (by decide) rfl rfl]
  rfl

/-- TMkCNT_L: the reload alone (R45). -/
theorem memWrite_tmCntL (k : Fin 4) (v : Word) (s : State) :
    memWrite .half (BitVec.ofNat 32 (0x04000100 + 4 * k.val)) v s =
      { s.accessed .half (BitVec.ofNat 32 (0x04000100 + 4 * k.val)) with
        timers := s.timers.set k { s.timers[k] with reload := v.setWidth 16 } } := by
  rw [memWrite_of_whole_cell (cell := .tmCntL k) (by revert k; decide) (by revert k; decide) (by revert k; decide) rfl]
  have reload : mergeMasked (s.timers[k]).reload 0xFFFF#16 (v.setWidth 16) (BitVec.allOnes 16) = v.setWidth 16 := by
    rw [mergeMasked_allOnes, show 0xFFFF#16 = BitVec.allOnes 16 from rfl, BitVec.not_allOnes, BitVec.and_zero,
      BitVec.zero_or, BitVec.and_allOnes]
  exact congrArg (fun r => (s.accessed .half _).withTimer k { s.timers[k] with reload := r }) reload

/-- A whole write of TMkCNT_H: an enable from 0 to 1 loads the counter and clears the sub-counter (R45, R452). -/
theorem Timer.writeCtrl_allOnes (t : Timer) (v : Word) :
    t.writeCtrl (v.setWidth 16) (BitVec.allOnes 16) =
      let ctrl : Half := t.ctrl &&& 0xFF38#16 ||| v.setWidth 16 &&& 0x00C7#16
      if t.ctrl.getLsbD 7 = false ∧ v.getLsbD 7 = true then { t with ctrl := ctrl, counter := t.reload, sub := 0 }
      else { t with ctrl := ctrl } := by
  have merged : mergeMasked t.ctrl 0x00C7#16 (v.setWidth 16) (BitVec.allOnes 16) =
      t.ctrl &&& 0xFF38#16 ||| v.setWidth 16 &&& 0x00C7#16 := mergeMasked_allOnes ..
  have enable : (t.ctrl &&& 0xFF38#16 ||| v.setWidth 16 &&& 0x00C7#16).getLsbD 7 = v.getLsbD 7 := by
    simp
  simp only [Timer.writeCtrl, Timer.enabled, merged, enable, Bool.and_eq_true, Bool.not_eq_true']

/-- TMkCNT_H (R45, R452). -/
theorem memWrite_tmCntH (k : Fin 4) (v : Word) (s : State) :
    memWrite .half (BitVec.ofNat 32 (0x04000102 + 4 * k.val)) v s =
      { s.accessed .half (BitVec.ofNat 32 (0x04000102 + 4 * k.val)) with
        timers := s.timers.set k ((s.timers[k]).writeCtrl (v.setWidth 16) (BitVec.allOnes 16)) } := by
  rw [memWrite_of_whole_cell (cell := .tmCntH k) (by revert k; decide) (by revert k; decide) (by revert k; decide) rfl]
  rfl

/-- Settles O43, register by register. -/
theorem controlRegisterWrites : Obligations.ControlRegisterWrites := by
  intro s v
  refine ⟨memWrite_ie v s, memWrite_iflag v s, memWrite_iflag_high v s, memWrite_ie_iflag v s, memWrite_waitcnt v s,
    memWrite_ime v s, memWrite_postflg v s, memWrite_haltcnt v s, fun k => ⟨memWrite_tmCntL k v s, ?_⟩⟩
  rw [memWrite_tmCntH, Timer.writeCtrl_allOnes]

end Sys2Proof.Machine

/-! PROOFS. The encoding (`30_encoding.md`): the round trip of every instruction, the decoders total, and the bytes of
an instruction in memory order. -/

namespace Sys2Proof

/-! ### The round trip -/

section RoundTrip

open Laws.Roundtrip

/-- Settles O1: one lemma per instruction, which walks the priority list on the known bits of its layout and reads each
field back. -/
theorem roundTrip : Obligations.RoundTrip
  | .armBx c rn => armBx c rn | .armBkpt c imm12 imm4 => armBkpt c imm12 imm4
  | .armMul c sf rd rs rm => armMul c sf rd rs rm | .armMla c sf rd rn rs rm => armMla c sf rd rn rs rm
  | .armUmull c sf rdHi rdLo rs rm => armUmull c sf rdHi rdLo rs rm
  | .armUmlal c sf rdHi rdLo rs rm => armUmlal c sf rdHi rdLo rs rm
  | .armSmull c sf rdHi rdLo rs rm => armSmull c sf rdHi rdLo rs rm
  | .armSmlal c sf rdHi rdLo rs rm => armSmlal c sf rdHi rdLo rs rm | .armSwp c rn rd rm => armSwp c rn rd rm
  | .armSwpb c rn rd rm => armSwpb c rn rd rm | .armUndMulSwap c hi lo => armUndMulSwap c hi lo
  | .armUndLdrdStrd c puiw mid h lo => armUndLdrdStrd c puiw mid h lo
  | .armLdrh c ix up off rn rd => armLdrh c ix up off rn rd
  | .armStrh c ix up off rn rd => armStrh c ix up off rn rd
  | .armLdrsb c ix up off rn rd => armLdrsb c ix up off rn rd
  | .armLdrsh c ix up off rn rd => armLdrsh c ix up off rn rd | .armMrs c p rd => armMrs c p rd
  | .armMrsBit25 c p rd => armMrsBit25 c p rd | .armMsrReg c p fsxc rm => armMsrReg c p fsxc rm
  | .armMsrImm c p fsxc rot imm8 => armMsrImm c p fsxc rot imm8 | .armAnd c sf rd rn op2 => armAnd c sf rd rn op2
  | .armEor c sf rd rn op2 => armEor c sf rd rn op2 | .armSub c sf rd rn op2 => armSub c sf rd rn op2
  | .armRsb c sf rd rn op2 => armRsb c sf rd rn op2 | .armAdd c sf rd rn op2 => armAdd c sf rd rn op2
  | .armAdc c sf rd rn op2 => armAdc c sf rd rn op2 | .armSbc c sf rd rn op2 => armSbc c sf rd rn op2
  | .armRsc c sf rd rn op2 => armRsc c sf rd rn op2 | .armTst c rn op2 => armTst c rn op2
  | .armTeq c rn op2 => armTeq c rn op2 | .armCmp c rn op2 => armCmp c rn op2
  | .armCmn c rn op2 => armCmn c rn op2 | .armOrr c sf rd rn op2 => armOrr c sf rd rn op2
  | .armMov c sf rd op2 => armMov c sf rd op2 | .armBic c sf rd rn op2 => armBic c sf rd rn op2
  | .armMvn c sf rd op2 => armMvn c sf rd op2 | .armUnd c hi lo => armUnd c hi lo
  | .armLdrt c up off rn rd => armLdrt c up off rn rd | .armLdrbt c up off rn rd => armLdrbt c up off rn rd
  | .armStrt c up off rn rd => armStrt c up off rn rd | .armStrbt c up off rn rd => armStrbt c up off rn rd
  | .armLdr c ix up off rn rd => armLdr c ix up off rn rd | .armStr c ix up off rn rd => armStr c ix up off rn rd
  | .armLdrb c ix up off rn rd => armLdrb c ix up off rn rd
  | .armStrb c ix up off rn rd => armStrb c ix up off rn rd
  | .armLdm c mode sbit w rn list => armLdm c mode sbit w rn list
  | .armStm c mode sbit w rn list => armStm c mode sbit w rn list | .armB c off24 => armB c off24
  | .armBl c off24 => armBl c off24 | .armLdc c punw rn crd cp off8 => armLdc c punw rn crd cp off8
  | .armStc c punw rn crd cp off8 => armStc c punw rn crd cp off8
  | .armCdp c opc1 crn crd cp opc2 crm => armCdp c opc1 crn crd cp opc2 crm
  | .armMrc c opc1 crn rd cp opc2 crm => armMrc c opc1 crn rd cp opc2 crm
  | .armMcr c opc1 crn rd cp opc2 crm => armMcr c opc1 crn rd cp opc2 crm | .armSwi c comment => armSwi c comment
  | .thumbSwi imm8 => thumbSwi imm8 | .thumbUndCond imm8 => thumbUndCond imm8
  | .thumbBCond c soff8 => thumbBCond c soff8 | .thumbBkpt imm8 => thumbBkpt imm8
  | .thumbAddSpImm imm7 => thumbAddSpImm imm7 | .thumbAddSpNegImm imm7 => thumbAddSpNegImm imm7
  | .thumbPush r rlist => thumbPush r rlist | .thumbPop r rlist => thumbPop r rlist
  | .thumbUnd1011 low => thumbUnd1011 low | .thumbAddReg rn rs rd => thumbAddReg rn rs rd
  | .thumbSubReg rn rs rd => thumbSubReg rn rs rd | .thumbAddImm3 imm3 rs rd => thumbAddImm3 imm3 rs rd
  | .thumbSubImm3 imm3 rs rd => thumbSubImm3 imm3 rs rd | .thumbLslImm imm5 rs rd => thumbLslImm imm5 rs rd
  | .thumbLsrImm imm5 rs rd => thumbLsrImm imm5 rs rd | .thumbAsrImm imm5 rs rd => thumbAsrImm imm5 rs rd
  | .thumbMovImm rd imm8 => thumbMovImm rd imm8 | .thumbCmpImm rd imm8 => thumbCmpImm rd imm8
  | .thumbAddImm8 rd imm8 => thumbAddImm8 rd imm8 | .thumbSubImm8 rd imm8 => thumbSubImm8 rd imm8
  | .thumbAnd rs rd => thumbAnd rs rd | .thumbEor rs rd => thumbEor rs rd
  | .thumbLslReg rs rd => thumbLslReg rs rd | .thumbLsrReg rs rd => thumbLsrReg rs rd
  | .thumbAsrReg rs rd => thumbAsrReg rs rd | .thumbAdc rs rd => thumbAdc rs rd
  | .thumbSbc rs rd => thumbSbc rs rd | .thumbRorReg rs rd => thumbRorReg rs rd
  | .thumbTst rs rd => thumbTst rs rd | .thumbNeg rs rd => thumbNeg rs rd
  | .thumbCmpReg rs rd => thumbCmpReg rs rd | .thumbCmn rs rd => thumbCmn rs rd
  | .thumbOrr rs rd => thumbOrr rs rd | .thumbMul rs rd => thumbMul rs rd | .thumbBic rs rd => thumbBic rs rd
  | .thumbMvn rs rd => thumbMvn rs rd | .thumbUndBlxReg low => thumbUndBlxReg low
  | .thumbAddHigh rs rd => thumbAddHigh rs rd | .thumbCmpHigh rs rd => thumbCmpHigh rs rd
  | .thumbMovHigh rs rd => thumbMovHigh rs rd | .thumbBx rs => thumbBx rs
  | .thumbLdrPc rd imm8 => thumbLdrPc rd imm8 | .thumbStrhReg ro rb rd => thumbStrhReg ro rb rd
  | .thumbLdsbReg ro rb rd => thumbLdsbReg ro rb rd | .thumbLdrhReg ro rb rd => thumbLdrhReg ro rb rd
  | .thumbLdshReg ro rb rd => thumbLdshReg ro rb rd | .thumbStrReg ro rb rd => thumbStrReg ro rb rd
  | .thumbStrbReg ro rb rd => thumbStrbReg ro rb rd | .thumbLdrReg ro rb rd => thumbLdrReg ro rb rd
  | .thumbLdrbReg ro rb rd => thumbLdrbReg ro rb rd | .thumbStrImm imm5 rb rd => thumbStrImm imm5 rb rd
  | .thumbLdrImm imm5 rb rd => thumbLdrImm imm5 rb rd | .thumbStrbImm imm5 rb rd => thumbStrbImm imm5 rb rd
  | .thumbLdrbImm imm5 rb rd => thumbLdrbImm imm5 rb rd | .thumbStrhImm imm5 rb rd => thumbStrhImm imm5 rb rd
  | .thumbLdrhImm imm5 rb rd => thumbLdrhImm imm5 rb rd | .thumbStrSp rd imm8 => thumbStrSp rd imm8
  | .thumbLdrSp rd imm8 => thumbLdrSp rd imm8 | .thumbAddPc rd imm8 => thumbAddPc rd imm8
  | .thumbAddSp rd imm8 => thumbAddSp rd imm8 | .thumbStmia rb rlist => thumbStmia rb rlist
  | .thumbLdmia rb rlist => thumbLdmia rb rlist | .thumbB off11 => thumbB off11
  | .thumbUndBlxSuffix low => thumbUndBlxSuffix low | .thumbBlFirst off11 => thumbBlFirst off11
  | .thumbBlSecond off11 => thumbBlSecond off11

end RoundTrip

/-! ### What a priority list answers -/

section Lists

variable {n : Nat}

/-- A tag that a list gives stands at an entry that matches; the default tag may also say that no entry does (R121). -/
theorem getD_classify_cases {l : List (BitVec n × BitVec n × Tag)} {w : BitVec n} {d t : Tag}
    (h : (classify l w).getD d = t) :
    (∃ e ∈ l, w &&& e.1 = e.2.1 ∧ e.2.2 = t) ∨ (t = d ∧ ∀ e ∈ l, w &&& e.1 ≠ e.2.1) := by
  induction l with
  | nil => exact .inr ⟨h.symm, by simp⟩
  | cons e rest ih =>
    rw [classify] at h
    split at h
    next he => exact .inl ⟨e, List.mem_cons_self, he, h⟩
    next he =>
      refine (ih h).imp ?_ ?_
      · exact fun ⟨e', mem, found⟩ => ⟨e', List.mem_cons_of_mem e mem, found⟩
      · exact fun ⟨isDefault, hn⟩ => ⟨isDefault, List.forall_mem_cons.mpr ⟨he, hn⟩⟩

/-- Some entry of the list matches every word of which the bits `k` are known to be `v`. -/
def someEntry (k v : BitVec n) (l : List (BitVec n × BitVec n × Tag)) : Bool :=
  l.any fun e => e.1 &&& ~~~k == 0 && e.1 &&& v == e.2.1

/-- An entry whose mask lies within the known bits matches as these do. -/
theorem exists_entry_of_someEntry {l : List (BitVec n × BitVec n × Tag)} {k v w : BitVec n} (h : w &&& k = v)
    (hs : someEntry k v l = true) : ∃ e ∈ l, w &&& e.1 = e.2.1 := by
  simp only [someEntry, List.any_eq_true, Bool.and_eq_true, beq_iff_eq] at hs
  obtain ⟨e, mem, within, same⟩ := hs
  refine ⟨e, mem, ?_⟩
  rw [← same, ← h]
  ext i hi
  have := congrArg (fun b => b.getLsbD i) within
  simp at this ⊢
  grind

/-- The tag of a word is the default or stands in the list. -/
theorem getD_classify_mem (l : List (BitVec n × BitVec n × Tag)) (w : BitVec n) (d : Tag) :
    (classify l w).getD d ∈ d :: l.map (·.2.2) := by
  rcases getD_classify_cases (rfl : (classify l w).getD d = _) with ⟨e, mem, -, tag⟩ | ⟨isDefault, -⟩
  · exact List.mem_cons_of_mem d (tag ▸ List.mem_map_of_mem mem)
  · rw [isDefault]
    exact List.mem_cons_self

/-- A word that matches has every bit the pattern has. -/
theorem getLsbD_of_masked {w m p : BitVec n} {i : Nat} (h : w &&& m = p) (hp : p.getLsbD i = true) :
    w.getLsbD i = true := by
  rw [← h, BitVec.getLsbD_and, Bool.and_eq_true] at hp
  exact hp.1

/-- A field of a field. -/
theorem extractLsb'_extractLsb' {w : BitVec n} {s len start len' : Nat} (h : start + len ≤ len') :
    (w.extractLsb' s len').extractLsb' start len = w.extractLsb' (s + start) len := by
  ext i hi
  simp [show start + i < len' by omega, Nat.add_assoc]

end Lists

/-! ### Every ARM word -/

section Arm

open Laws

/-- The instruction is well formed, and its encoding is an ARM word. -/
def Instr.OfArm (i : Instr) : Prop := i.wf = true ∧ ∃ v, encode i = .arm v

/-! Every branch of a format ends in an instruction without checked fields. -/

theorem decodeStatusTransfer_ofArm (c : Cond) (w : Word) : (decodeStatusTransfer c w).OfArm := by
  rw [decodeStatusTransfer]
  split <;> split <;> exact ⟨rfl, _, rfl⟩

theorem decodeDataProcessing_ofArm (c : Cond) (w : Word) : (decodeDataProcessing c w).OfArm := by
  have orStatus : ∀ {b : Bool} {i : Instr}, i.OfArm → (if b then i else decodeStatusTransfer c w).OfArm := by
    intro b i hi
    split
    · exact hi
    · exact decodeStatusTransfer_ofArm c w
  rw [decodeDataProcessing]
  split
  -- opcodes 8 to 11: a test when S = 1, a status transfer when S = 0 (R126)
  case h_9 | h_10 | h_11 | h_12 => exact orStatus ⟨rfl, _, rfl⟩
  all_goals exact ⟨rfl, _, rfl⟩

theorem decodeMultiply_ofArm (c : Cond) (w : Word) : (decodeMultiply c w).OfArm := by
  rw [decodeMultiply]
  split <;> exact ⟨rfl, _, rfl⟩

theorem decodeMultiplyLong_ofArm (c : Cond) (w : Word) : (decodeMultiplyLong c w).OfArm := by
  rw [decodeMultiplyLong]
  split <;> split <;> exact ⟨rfl, _, rfl⟩

theorem decodeSwap_ofArm (c : Cond) (w : Word) : (decodeSwap c w).OfArm := by
  rw [decodeSwap]
  split <;> exact ⟨rfl, _, rfl⟩

theorem decodeHalfTransfer_ofArm (c : Cond) (w : Word) : (decodeHalfTransfer c w).OfArm := by
  rw [decodeHalfTransfer]
  split
  · split <;> exact ⟨rfl, _, rfl⟩
  · exact ⟨rfl, _, rfl⟩

theorem decodeSingleTransfer_ofArm (c : Cond) (w : Word) : (decodeSingleTransfer c w).OfArm := by
  rw [decodeSingleTransfer]
  split <;> split <;> split <;> exact ⟨rfl, _, rfl⟩

theorem decodeBlockTransfer_ofArm (c : Cond) (w : Word) : (decodeBlockTransfer c w).OfArm := by
  rw [decodeBlockTransfer]
  split <;> exact ⟨rfl, _, rfl⟩

theorem decodeCoprocTransfer_ofArm (c : Cond) (w : Word) : (decodeCoprocTransfer c w).OfArm := by
  rw [decodeCoprocTransfer]
  split <;> exact ⟨rfl, _, rfl⟩

theorem decodeCoprocRegister_ofArm (c : Cond) (w : Word) : (decodeCoprocRegister c w).OfArm := by
  rw [decodeCoprocRegister]
  split <;> exact ⟨rfl, _, rfl⟩

/-- Of the three undefined spaces, bits 26 and 6 single out the one of entry A6. No word is undefined for want of an
entry. -/
theorem masked_of_armTag_und {w : Word} (ht : armTag w = .aUND) (h26 : w.getLsbD 26 = false) (h6 : w.getLsbD 6 = false) :
    w &&& 0x0E0000F0#32 = 0x00000090#32 := by
  rcases getD_classify_cases ht with ⟨e, mem, he, tag⟩ | ⟨-, unmatched⟩
  · have entries : ∀ e ∈ armList, e.2.2 = .aUND →
        e.1 = 0x0E0000F0#32 ∧ e.2.1 = 0x00000090#32 ∨ e.2.1.getLsbD 6 = true ∨ e.2.1.getLsbD 26 = true := by decide
    rcases entries e mem tag with ⟨mask, pattern⟩ | bit6 | bit26
    · rw [← mask, ← pattern, he]
    · exact absurd (h6.symm.trans (getLsbD_of_masked he bit6)) Bool.false_ne_true
    · exact absurd (h26.symm.trans (getLsbD_of_masked he bit26)) Bool.false_ne_true
  · have total : ∀ x : BitVec 4, x.getLsbD 2 = false →
        someEntry ((BitVec.allOnes 4).setWidth 32 <<< 24) (x.setWidth 32 <<< 24) armList = true := by decide
    obtain ⟨e, mem, he⟩ := exists_entry_of_someEntry (known_field rfl) (total (w.extractLsb' 24 4) (by simpa using h26))
    exact absurd he (unmatched e mem)

/-- A word of the space of A6 that is undefined is none of A3, A4 and A5, which come first. -/
theorem undMulSwapAllowed_of_armTag {w : Word} (ht : armTag w = .aUND) (h : w &&& 0x0E0000F0#32 = 0x00000090#32) :
    undMulSwapAllowed (w.extractLsb' 8 17) = true := by
  have undefined : ∀ {t : Tag}, armTag w = t → t = .aUND := fun h => h.symm.trans ht
  simp (disch := decide) only [undMulSwapAllowed, extractLsb'_extractLsb', Bool.and_eq_true, bne_iff_ne,
    Bool.not_eq_true', Bool.and_eq_false_imp, beq_iff_eq, beq_eq_false_iff_ne, ne_eq]
  refine ⟨⟨fun h3 => ?_, fun h4 => ?_⟩, fun ⟨h5, h20⟩ h8 => ?_⟩
  · exact absurd (undefined (armTag_of (known_or h (known_field h3)) .aMUL (by decide))) (by decide)
  · exact absurd (undefined (armTag_of (known_or h (known_field h4)) .aMULL (by decide))) (by decide)
  · exact absurd (undefined (armTag_of (known_or (known_or h (known_field h5)) (known_or (known_field h20)
      (known_field h8))) .aSWP (by decide))) (by decide)

theorem decodeArmUndefined_ofArm (c : Cond) {w : Word} (ht : armTag w = .aUND) : (decodeArmUndefined c w).OfArm := by
  rw [decodeArmUndefined]
  split
  · exact ⟨rfl, _, rfl⟩
  next h26 =>
    split
    · exact ⟨rfl, _, rfl⟩
    next h6 =>
      have space := masked_of_armTag_und ht (Bool.not_eq_true _ ▸ h26) (Bool.not_eq_true _ ▸ h6)
      exact ⟨undMulSwapAllowed_of_armTag ht space, _, rfl⟩

/-- The tag of a word is one of the ARM list's. -/
theorem armTag_mem (w : Word) : armTag w ∈ Tag.aUND :: armList.map (·.2.2) := getD_classify_mem ..

/-- Every word decodes to a well-formed ARM instruction (R121, R122). -/
theorem decodeArm_ofArm (w : Word) : (decodeArm w).OfArm := by
  rw [decodeArm]
  split
  · exact ⟨rfl, _, rfl⟩
  · split <;> exact ⟨rfl, _, rfl⟩
  · exact decodeDataProcessing_ofArm ..
  · exact decodeMultiply_ofArm ..
  · exact decodeMultiplyLong_ofArm ..
  · exact decodeSingleTransfer_ofArm ..
  · exact decodeHalfTransfer_ofArm ..
  · exact decodeBlockTransfer_ofArm ..
  · exact decodeSwap_ofArm ..
  · exact ⟨rfl, _, rfl⟩
  · exact decodeCoprocTransfer_ofArm ..
  · exact ⟨rfl, _, rfl⟩
  · exact decodeCoprocRegister_ofArm ..
  · exact ⟨rfl, _, rfl⟩
  · have und : armTag w = .aUND := by
      have tags := armTag_mem w
      simp_all [armList]
    exact decodeArmUndefined_ofArm _ und

end Arm

/-! ### Every THUMB halfword -/

section Thumb

open Laws

/-- The instruction is well formed, and its encoding is a THUMB halfword. -/
def Instr.OfThumb (i : Instr) : Prop := i.wf = true ∧ ∃ v, encode i = .thumb v

/-! Every branch of a format ends in an instruction without checked fields. -/

theorem decodeFormat1_ofThumb (h : Half) : (decodeFormat1 h).OfThumb := by
  rw [decodeFormat1]
  split <;> exact ⟨rfl, _, rfl⟩

theorem decodeFormat2_ofThumb (h : Half) : (decodeFormat2 h).OfThumb := by
  rw [decodeFormat2]
  split <;> exact ⟨rfl, _, rfl⟩

theorem decodeFormat3_ofThumb (h : Half) : (decodeFormat3 h).OfThumb := by
  rw [decodeFormat3]
  split <;> exact ⟨rfl, _, rfl⟩

theorem decodeFormat4_ofThumb (h : Half) : (decodeFormat4 h).OfThumb := by
  rw [decodeFormat4]
  split <;> exact ⟨rfl, _, rfl⟩

theorem decodeFormat5_ofThumb (h : Half) : (decodeFormat5 h).OfThumb := by
  rw [decodeFormat5]
  split <;> exact ⟨rfl, _, rfl⟩

theorem decodeFormat7_ofThumb (h : Half) : (decodeFormat7 h).OfThumb := by
  rw [decodeFormat7]
  split <;> exact ⟨rfl, _, rfl⟩

theorem decodeFormat8_ofThumb (h : Half) : (decodeFormat8 h).OfThumb := by
  rw [decodeFormat8]
  split <;> exact ⟨rfl, _, rfl⟩

theorem decodeFormat9_ofThumb (h : Half) : (decodeFormat9 h).OfThumb := by
  rw [decodeFormat9]
  split <;> exact ⟨rfl, _, rfl⟩

/-- A halfword of format 16 has a condition code of 0 to 13: T1 and T2 take 14 and 15 first. -/
theorem thumbBCond_wf_of_thumbTag {h : Half} (ht : thumbTag h = .tF16) (x : BitVec 8) :
    (Instr.thumbBCond (Cond.ofCode (h.extractLsb' 8 4)) x).wf = true := by
  have format16 : ∀ {t : Tag}, thumbTag h = t → t = .tF16 := fun h => h.symm.trans ht
  rcases getD_classify_cases ht with ⟨e, mem, he, tag⟩ | ⟨tag, -⟩
  · have entry : ∀ e ∈ thumbList, e.2.2 = .tF16 → e.1 = 0xF000#16 ∧ e.2.1 = 0xD000#16 := by decide
    obtain ⟨mask, pattern⟩ := entry e mem tag
    rw [mask, pattern] at he
    have codes : ∀ b : BitVec 4, (Instr.thumbBCond (Cond.ofCode b) x).wf = true ∨ b = 14 ∨ b = 15 := by
      simp only [Instr.wf]
      decide
    rcases codes (h.extractLsb' 8 4) with wf | h14 | h15
    · exact wf
    · exact absurd (format16 (thumbTag_of (known_or he (known_field h14)) .tUND (by decide))) (by decide)
    · exact absurd (format16 (thumbTag_of (known_or he (known_field h15)) .tF17 (by decide))) (by decide)
  · exact absurd tag (by decide)

/-- An undefined halfword that T2 does not take begins with 1011, the one space that the list leaves open. -/
theorem extractLsb'_of_thumbTag_und {h : Half} (ht : thumbTag h = .tUND) (h14 : h.getLsbD 14 = false) :
    h.extractLsb' 12 4 = 0b1011#4 := by
  rcases getD_classify_cases ht with ⟨e, mem, he, tag⟩ | ⟨-, unmatched⟩
  · have entry : ∀ e ∈ thumbList, e.2.2 = .tUND → e.2.1.getLsbD 14 = true := by decide
    exact absurd (h14.symm.trans (getLsbD_of_masked he (entry e mem tag))) Bool.false_ne_true
  · have covered : ∀ x : BitVec 4, x.getLsbD 2 = false → x = 0b1011#4 ∨
        someEntry ((BitVec.allOnes 4).setWidth 16 <<< 12) (x.setWidth 16 <<< 12) thumbList = true := by decide
    refine (covered (h.extractLsb' 12 4) (by simpa using h14)).resolve_right fun some => ?_
    obtain ⟨e, mem, he⟩ := exists_entry_of_someEntry (known_field rfl) some
    exact unmatched e mem he

/-- In the space 1011 the entries T4, T5 and T6 come first. -/
theorem und1011Allowed_of_thumbTag {h : Half} (ht : thumbTag h = .tUND) (h14 : h.getLsbD 14 = false) :
    und1011Allowed (h.extractLsb' 0 12) = true := by
  have space := known_field (extractLsb'_of_thumbTag_und ht h14)
  have undefined : ∀ {t : Tag}, thumbTag h = t → t = .tUND := fun h => h.symm.trans ht
  simp (disch := decide) only [und1011Allowed, extractLsb'_extractLsb', Bool.and_eq_true, bne_iff_ne, ne_eq]
  refine ⟨⟨fun h4 => ?_, fun h5 => ?_⟩, fun h6 => ?_⟩
  · exact absurd (undefined (thumbTag_of (known_or space (known_field h4)) .tBKPT (by decide))) (by decide)
  · exact absurd (undefined (thumbTag_of (known_or space (known_field h5)) .tF13 (by decide))) (by decide)
  · exact absurd (undefined (thumbTag_of (known_or space (known_field h6)) .tF14 (by decide))) (by decide)

/-- The tag of a halfword is one of the THUMB list's. -/
theorem thumbTag_mem (h : Half) : thumbTag h ∈ Tag.tUND :: thumbList.map (·.2.2) := getD_classify_mem ..

/-- Every halfword decodes to a well-formed THUMB instruction (R121, R123). -/
theorem decodeThumb_ofThumb (h : Half) : (decodeThumb h).OfThumb := by
  rw [decodeThumb]
  split
  -- case `h_k` is format k up to 19, then BKPT, BLX and the undefined halfwords
  case h_1 => exact decodeFormat1_ofThumb h
  case h_2 => exact decodeFormat2_ofThumb h
  case h_3 => exact decodeFormat3_ofThumb h
  case h_4 => exact decodeFormat4_ofThumb h
  case h_5 => exact decodeFormat5_ofThumb h
  case h_7 => exact decodeFormat7_ofThumb h
  case h_8 => exact decodeFormat8_ofThumb h
  case h_9 => exact decodeFormat9_ofThumb h
  case h_6 | h_17 | h_18 | h_20 => exact ⟨rfl, _, rfl⟩
  case h_10 | h_11 | h_12 | h_13 | h_14 | h_15 | h_19 | h_21 => split <;> exact ⟨rfl, _, rfl⟩
  case h_16 ht => exact ⟨thumbBCond_wf_of_thumbTag ht _, _, rfl⟩
  case h_22 =>
    have und : thumbTag h = .tUND := by
      have tags := thumbTag_mem h
      simp_all [thumbList]
    split
    · exact ⟨rfl, _, rfl⟩
    next h14 => exact ⟨und1011Allowed_of_thumbTag und (Bool.not_eq_true _ ▸ h14), _, rfl⟩

end Thumb

/-! ### Bytes -/

section Bytes

/-- The bytes of a word, low byte first (R60). -/
theorem bytes_arm (w : Word) : (Code.arm w).bytes =
    [w.extractLsb' 0 8, w.extractLsb' 8 8, w.extractLsb' 16 8, w.extractLsb' 24 8] := by
  simp [Code.bytes, leBytes, BitVec.extractLsb', Nat.shiftRight_eq_div_pow, Nat.div_div_eq_div_mul]

/-- The bytes of a halfword, low byte first (R60). -/
theorem bytes_thumb (h : Half) : (Code.thumb h).bytes = [h.extractLsb' 0 8, h.extractLsb' 8 8] := by
  simp [Code.bytes, leBytes, BitVec.extractLsb', Nat.shiftRight_eq_div_pow]

/-- The four bytes of a word joined again, and the rest left over. -/
theorem decodeBytes_arm (w : Word) (rest : List Byte) :
    decodeBytes false ((Code.arm w).bytes ++ rest) = .ok (decodeArm w, rest) := by
  have joined : w.extractLsb' 24 8 ++ w.extractLsb' 16 8 ++ w.extractLsb' 8 8 ++ w.extractLsb' 0 8 = w := by
    simp only [BitVec.extractLsb'_append_extractLsb'_eq_extractLsb', BitVec.extractLsb'_eq_self]
  rw [bytes_arm]
  exact congrArg (fun v => Except.ok (decodeArm v, rest)) joined

/-- The two bytes of a halfword joined again, and the rest left over. -/
theorem decodeBytes_thumb (h : Half) (rest : List Byte) :
    decodeBytes true ((Code.thumb h).bytes ++ rest) = .ok (decodeThumb h, rest) := by
  rw [bytes_thumb]
  exact congrArg (fun v => Except.ok (decodeThumb v, rest)) (BitVec.extractLsb'_append_extractLsb' (w := 8) (len := 8))

/-- An encoded ARM instruction read from its bytes. -/
theorem decodeBytes_encode_arm {i : Instr} {w : Word} (hi : i.wf = true) (code : encode i = .arm w) (rest : List Byte) :
    decodeBytes false ((encode i).bytes ++ rest) = .ok (i, rest) := by
  have back : decodeArm w = i := (congrArg decode code).symm.trans (roundTrip i hi)
  rw [code, decodeBytes_arm, back]

/-- An encoded THUMB instruction read from its bytes. -/
theorem decodeBytes_encode_thumb {i : Instr} {h : Half} (hi : i.wf = true) (code : encode i = .thumb h)
    (rest : List Byte) : decodeBytes true ((encode i).bytes ++ rest) = .ok (i, rest) := by
  have back : decodeThumb h = i := (congrArg decode code).symm.trans (roundTrip i hi)
  rw [code, decodeBytes_thumb, back]

/-- An ARM word takes four bytes, a THUMB halfword two (R153). -/
theorem decodeBytes_tooShort : ∀ (t : Bool) (l : List Byte), l.length < (if t then 2 else 4) →
    decodeBytes t l = .error .tooShort
  | _, [], _ => rfl
  | _, [_], _ => rfl
  | false, [_, _], _ => rfl
  | false, [_, _, _], _ => rfl

end Bytes

/-! ### The statements -/

/-- Settles O2: both decoders follow the priority lists, whose order keeps the checked fields well formed; for the bytes,
O1 with the bytes joined. -/
theorem decoderIsTotal : Obligations.DecoderIsTotal := by
  refine ⟨decodeArm_ofArm, decodeThumb_ofThumb, fun i rest hi => ?_, decodeBytes_tooShort⟩
  split
  next code => exact decodeBytes_encode_arm hi code rest
  next code => exact decodeBytes_encode_thumb hi code rest

/-- Settles O3, by decoding each of the eighteen words. -/
theorem decodeWords : Obligations.DecodeWords := by
  unfold Obligations.DecodeWords
  decide

end Sys2Proof

/-! PROOFS. Data processing into r15 (R190) and the status transfers (R207 to R209). The shared ends of instructions are
first said in the words of the statements: `State.jumped`, `State.ended` and `State.noted`. -/

namespace Sys2Proof.Machine

/-! ### Writes of `pc` and of a destination -/

/-- `WritePC` drops the low bits that lie below the size of an instruction (R175). -/
theorem alignPc_eq (thumb : Bool) (t : Word) :
    alignPc thumb t = BitVec.ofNat 32 (t.toNat / (if thumb then 2 else 4) * (if thumb then 2 else 4)) := by
  cases thumb
  · exact alignWord_eq t
  · exact alignHalf_eq t

/-- `WritePC` with its refill is the jump of the statements (R175, R183). -/
theorem writePc_eq_jumped (t : Word) (s : State) : writePc t s = s.jumped t := by
  unfold writePc State.jumped
  rw [alignPc_eq]
  rfl

/-- The end of an ARM instruction that writes a register, r15 included (R27, R175). -/
theorem writeArm_eq_ended (rd : Reg) (v : Word) (s : State) : writeArm rd v s = s.ended 4 rd v := by
  unfold writeArm State.ended
  split
  · exact writePc_eq_jumped v s
  · rename_i h
    rw [setReg_of_ne h]
    rfl

theorem logIf_eq_noted (s : State) (b : Bool) (e : DiagEvent) : s.logIf b e = s.noted b e := rfl

/-- A condition that passes, with what the instruction's own effect leaves (R161). -/
theorem gated_next {c : Cond} {f : State → State} {s t : State} (h : condPassed s c = true) (effect : f s = t) :
    gated c f s = .next t := (gated_pass h).trans (congrArg _ effect)

/-! ### Data processing into r15 -/

/-- With r15 as destination the operation's own flags are not written: S = 1 restores the status word, then `pc` is
written by the restored T (R190). -/
theorem finishDp_to_pc (sf : Bool) (r flags : Word) (s : State) :
    finishDp sf 15 r flags s = (if sf then restoreCpsr s else s).jumped r := writePc_eq_jumped ..

section ToPc

variable {s : State} {c : Cond} (h : condPassed s c = true) (sf : Bool) (rn : Reg) (op2 : Operand2)
include h

/-- A logical operation into r15 (R190). -/
theorem logicalDp_to_pc (f : Word → Word → Word) :
    gated c (logicalDp sf 15 rn op2 f) s =
      .next ((if sf then restoreCpsr (s.charge (operand2Cycles op2)) else s.charge (operand2Cycles op2)).jumped
        (f (firstOperand s rn op2) (operand2 s op2).value)) :=
  gated_next h (finishDp_to_pc ..)

/-- A move into r15 (R190). -/
theorem moveDp_to_pc (f : Word → Word) :
    gated c (moveDp sf 15 op2 f) s =
      .next ((if sf then restoreCpsr (s.charge (operand2Cycles op2)) else s.charge (operand2Cycles op2)).jumped
        (f (operand2 s op2).value)) :=
  gated_next h (finishDp_to_pc ..)

/-- An arithmetic operation into r15 leaves the adder's value `r` alone (R190). -/
theorem arithmeticDp_to_pc {f : Word → Word → Bool → Sum} {r : Word}
    (value : (f (firstOperand s rn op2) (operand2 s op2).value s.c).value = r) :
    gated c (arithmeticDp sf 15 rn op2 f) s =
      .next ((if sf then restoreCpsr (s.charge (operand2Cycles op2)) else s.charge (operand2Cycles op2)).jumped r) :=
  gated_next h (value ▸ finishDp_to_pc ..)

end ToPc

/-- The adder without a carry in. -/
theorem addWithCarry_false_value (a b : Word) : (addWithCarry a b false).value = a + b :=
  (addWithCarry_value a b false).trans (BitVec.add_zero _)

/-- The subtraction without a borrow. -/
theorem subWithCarry_true_value (a b : Word) : (subWithCarry a b true).value = a - b :=
  (subWithCarry_value a b true).trans (BitVec.sub_zero _)

/-- Settles O33: the three kinds of operation end alike; the adder's value gives the six arithmetic results. -/
theorem armDataProcessingToPc : Obligations.ArmDataProcessingToPc := fun _ _ sf rn op2 h =>
  ⟨logicalDp_to_pc h sf rn op2 _, logicalDp_to_pc h sf rn op2 _,
    arithmeticDp_to_pc h sf rn op2 (subWithCarry_true_value ..),
    arithmeticDp_to_pc h sf rn op2 (subWithCarry_true_value ..),
    arithmeticDp_to_pc h sf rn op2 (addWithCarry_false_value ..),
    arithmeticDp_to_pc h sf rn op2 (addWithCarry_value ..),
    arithmeticDp_to_pc h sf rn op2 (subWithCarry_value ..),
    arithmeticDp_to_pc h sf rn op2 (subWithCarry_value ..),
    logicalDp_to_pc h sf rn op2 _, moveDp_to_pc h sf op2 _, logicalDp_to_pc h sf rn op2 _, moveDp_to_pc h sf op2 _⟩

/-! ### The status transfers -/

/-- User and System mode own no saved word (R35). -/
theorem Mode.spsrIndex_absent {m : Mode} (h : m = .usr ∨ m = .sys) : m.spsrIndex = none := by
  obtain rfl | rfl := h <;> rfl

/-- Each other mode owns one saved word (R35). -/
theorem Mode.spsrIndex_present {m : Mode} (h : ¬(m = .usr ∨ m = .sys)) : m.spsrIndex = some (m.spsrIndex.getD 0) := by
  cases m
  case usr => exact absurd (.inl rfl) h
  case sys => exact absurd (.inr rfl) h
  all_goals rfl

/-- The mask of a field mask, bit by bit: a byte of the word for each bit (R126, R208). -/
theorem fieldMask_getLsbD (fsxc : BitVec 4) {j : Nat} (h : j < 32) :
    (fieldMask fsxc).getLsbD j = fsxc.getLsbD (j / 8) := by
  revert j fsxc
  decide

/-- The value of a rotated immediate (R141). -/
theorem rotatedImm_eq (rot : BitVec 4) (imm8 : BitVec 8) :
    rotatedImm rot imm8 = (imm8.setWidth 32 : Word).rotateRight (2 * rot.toNat) :=
  ror32_eq _ (by have := rot.isLt; omega)

theorem readStatus_of_spsrIndex {s : State} {m : Fin 5} (index : s.mode.spsrIndex = some m) :
    readStatus .spsr s = (s.spsr[m], s.noted (!s.spsrValid[m]) (.staleSpsr s.mode)) := by
  simp only [readStatus, index, logIf_eq_noted]

/-- MRS of the saved word: the word and the event of a stale one; without one the status word and an event (R36, R37,
R207). -/
theorem readStatus_spsr (s : State) :
    let absent : Bool := s.mode = .usr ∨ s.mode = .sys
    let m : Fin 5 := s.mode.spsrIndex.getD 0
    readStatus .spsr s =
      (if absent then s.cpsr else s.spsr[m],
        if absent then s.log (.spsrAbsent .read) else s.noted (!s.spsrValid[m]) (.staleSpsr s.mode)) := by
  by_cases h : s.mode = .usr ∨ s.mode = .sys
  · simp only [decide_eq_true h, if_true, readStatus, Mode.spsrIndex_absent h]
  · simp only [decide_eq_false h, Bool.false_eq_true, if_false]
    exact readStatus_of_spsrIndex (Mode.spsrIndex_present h)

theorem msrWrite_of_spsrIndex {s : State} {m : Fin 5} (index : s.mode.spsrIndex = some m) (fsxc : BitVec 4)
    (operand : Word) : msrWrite .spsr fsxc operand s =
      (s.withSpsr m (s.spsr[m] &&& ~~~(fieldMask fsxc) ||| operand &&& fieldMask fsxc)).withSpsrValid m true := by
  simp only [msrWrite, index]

/-- MSR to the saved word: the masked merge and the tag; without one an event alone (R37, R208). -/
theorem msrWrite_spsr (fsxc : BitVec 4) (operand : Word) (s : State) :
    let absent : Bool := s.mode = .usr ∨ s.mode = .sys
    let m : Fin 5 := s.mode.spsrIndex.getD 0
    msrWrite .spsr fsxc operand s =
      if absent then s.log (.spsrAbsent .write)
      else (s.withSpsr m (s.spsr[m] &&& ~~~(fieldMask fsxc) ||| operand &&& fieldMask fsxc)).withSpsrValid m true := by
  by_cases h : s.mode = .usr ∨ s.mode = .sys
  · simp only [decide_eq_true h, if_true, msrWrite, Mode.spsrIndex_absent h]
  · simp only [decide_eq_false h, Bool.false_eq_true, if_false]
    exact msrWrite_of_spsrIndex (Mode.spsrIndex_present h) ..

/-- The end of MSR: `pc` past the instruction, which no write of a status word moves (R27, R208). -/
theorem advanceArm_msrWrite (p : StatusWord) (fsxc : BitVec 4) (operand : Word) (s : State) :
    advanceArm (msrWrite p fsxc operand s) = { msrWrite p fsxc operand s with pc := s.pc + 4 } :=
  congrArg (fun a => (msrWrite p fsxc operand s).withPc (a + 4)) (msrWrite_before ..).pc

section Transfers

variable {s : State} {c : Cond} (h : condPassed s c = true) (p : StatusWord)
include h

/-- MRS in both encodings: the value read, after the events of the read the event of r15, then the destination
(R207). -/
theorem exec_mrs (rd : Reg) :
    let r := readStatus p s
    let t := (r.2.noted (rd = 15) (.unpredictable .mrsToR15)).ended 4 rd r.1
    exec (.armMrs c p rd) s = .next t ∧ exec (.armMrsBit25 c p rd) s = .next t :=
  ⟨gated_next h (writeArm_eq_ended ..), gated_next h (writeArm_eq_ended ..)⟩

/-- MSR from a register (R208). -/
theorem exec_armMsrReg (fsxc : BitVec 4) (rm : Reg) :
    exec (.armMsrReg c p fsxc rm) s = .next { msrWrite p fsxc (s.armReg rm) s with pc := s.pc + 4 } :=
  gated_next (f := fun s => advanceArm (msrWrite p fsxc (s.armReg rm) s)) h (advanceArm_msrWrite ..)

/-- MSR from a rotated immediate (R209). -/
theorem exec_armMsrImm (fsxc rot : BitVec 4) (imm8 : BitVec 8) :
    exec (.armMsrImm c p fsxc rot imm8) s =
      .next { msrWrite p fsxc (rotatedImm rot imm8) s with pc := s.pc + 4 } :=
  gated_next (f := fun s => advanceArm (msrWrite p fsxc (rotatedImm rot imm8) s)) h (advanceArm_msrWrite ..)

end Transfers

/-- Settles O34: the mask is `fieldMask`; the saved word is read and written as `readStatus_spsr` and `msrWrite_spsr`
say. -/
theorem armStatusTransfers : Obligations.ArmStatusTransfers := by
  intro s c hc absent m
  refine ⟨fun rd => ?_, fun fsxc => ⟨fieldMask fsxc, fun j hj => fieldMask_getLsbD fsxc hj, fun operand => ?_⟩⟩
  · intro t u v
    have read : readStatus .spsr s = (v, u) := readStatus_spsr s
    have cpsr := exec_mrs hc .cpsr rd
    have spsr := exec_mrs hc .spsr rd
    rw [read] at spsr
    exact ⟨cpsr.1, cpsr.2, spsr.1, spsr.2⟩
  · intro toCpsr toSpsr
    have written : msrWrite .spsr fsxc operand s = toSpsr := msrWrite_spsr ..
    rw [← written]
    refine ⟨fun rm value => ?_, fun rot imm8 value => ?_⟩
    · rw [exec_armMsrReg hc, exec_armMsrReg hc, value]
      exact ⟨rfl, rfl⟩
    · rw [exec_armMsrImm hc, exec_armMsrImm hc, rotatedImm_eq, value]
      exact ⟨rfl, rfl⟩

end Sys2Proof.Machine

/-! PROOFS. The multiplies (R220 to R226). The products are first said in numbers; then each of the two effects is said
once in the words of the statements, for any accumulation. -/

namespace Sys2Proof.Machine

/-! ### The products in numbers -/

/-- The low word of the product (R220). -/
theorem mul_eq_ofNat (a b : Word) : a * b = BitVec.ofNat 32 (a.toNat * b.toNat) := by
  rw [BitVec.ofNat_mul, BitVec.ofNat_toNat, BitVec.ofNat_toNat, BitVec.setWidth_eq, BitVec.setWidth_eq]

/-- The low word of the product and the accumulate operand (R221). -/
theorem mul_add_eq_ofNat (a b d : Word) : a * b + d = BitVec.ofNat 32 (a.toNat * b.toNat + d.toNat) := by
  rw [BitVec.ofNat_add, ← mul_eq_ofNat, BitVec.ofNat_toNat, BitVec.setWidth_eq]

/-- A word zero-extended to 64 bits is its unsigned value. -/
theorem setWidth_eq_ofInt (w : Word) : w.setWidth 64 = BitVec.ofInt 64 w.toNat := by
  rw [BitVec.ofInt_natCast, BitVec.ofNat_toNat]

/-- The unsigned product (R223). -/
theorem longProduct_unsigned (m r : Word) : longProduct false m r = BitVec.ofInt 64 (m.toNat * r.toNat) := by
  rw [BitVec.ofInt_mul, ← setWidth_eq_ofInt, ← setWidth_eq_ofInt]
  rfl

/-- The signed product (R225): a sign extension is the word's signed value. -/
theorem longProduct_signed (m r : Word) : longProduct true m r = BitVec.ofInt 64 (m.toInt * r.toInt) :=
  (BitVec.ofInt_mul ..).symm

/-- The accumulate operand RdHi:RdLo (R224, R226). -/
theorem append_eq_ofInt (hi lo : Word) : hi ++ lo = BitVec.ofInt 64 (hi.toNat * 2 ^ 32 + lo.toNat) := by
  have number : (hi ++ lo).toNat = hi.toNat * 2 ^ 32 + lo.toNat := by
    rw [BitVec.toNat_append, ← Nat.shiftLeft_add_eq_or_of_lt lo.isLt, Nat.shiftLeft_eq]
  have cast : ((hi.toNat * 2 ^ 32 + lo.toNat : Nat) : Int) = hi.toNat * 2 ^ 32 + lo.toNat := by omega
  rw [← cast, ← number, BitVec.ofInt_natCast, BitVec.ofNat_toNat, BitVec.setWidth_eq]

/-- The accumulation adds the operand modulo 2^64 (R224, R226). -/
theorem add_append_eq_ofInt {p : BitVec 64} {x : Int} (product : p = BitVec.ofInt 64 x) (hi lo : Word) :
    p + (hi ++ lo) = BitVec.ofInt 64 (x + (hi.toNat * 2 ^ 32 + lo.toNat)) := by
  rw [BitVec.ofInt_add, ← append_eq_ofInt, product]

/-- The low half of a 64-bit result (R222). -/
theorem extract_low_eq (p : BitVec 64) : p.extractLsb' 0 32 = BitVec.ofNat 32 (p.toNat % 2 ^ 32) := by
  apply BitVec.eq_of_toNat_eq
  rw [BitVec.extractLsb'_toNat, BitVec.toNat_ofNat, Nat.mod_mod, Nat.shiftRight_zero]

/-- The high half of a 64-bit result (R222). -/
theorem extract_high_eq (p : BitVec 64) : p.extractLsb' 32 32 = BitVec.ofNat 32 (p.toNat / 2 ^ 32) := by
  apply BitVec.eq_of_toNat_eq
  rw [BitVec.extractLsb'_toNat, BitVec.toNat_ofNat, Nat.shiftRight_eq_div_pow]

/-! ### The two effects -/

/-- A test of three pairs of register fields, as the model computes it and as the statements name it. -/
theorem anyEqual_three (a a' b b' d d' : Reg) :
    (a == a' || b == b' || d == d') = decide (a = a' ∨ b = b' ∨ d = d') := by
  rw [Bool.eq_iff_iff]
  simp only [Bool.or_eq_true, beq_iff_eq, decide_eq_true_eq, or_assoc]

/-- The same for four pairs. -/
theorem anyEqual_four (a a' b b' d d' e e' : Reg) :
    (a == a' || b == b' || d == d' || e == e') = decide (a = a' ∨ b = b' ∨ d = d' ∨ e = e') := by
  rw [Bool.eq_iff_iff]
  simp only [Bool.or_eq_true, beq_iff_eq, decide_eq_true_eq, or_assoc]

/-- What both kinds of multiply do before they write: two events, the cycles and with S = 1 the flags (R220, R222). -/
theorem charged_flagged (s : State) (b d : Bool) (e f : DiagEvent) (n : Nat) (sf : Bool) (w : Word) :
    let t := (s.logIf b e).logIf d f
    (if sf then (t.charge n).withCpsr w else t.charge n) =
      { t with tally := s.tally + n, cpsr := if sf then w else s.cpsr } := by
  intro t
  have tally : t.tally = s.tally := by simp [t]
  have cpsr : t.cpsr = s.cpsr := by simp [t]
  rw [← tally, ← cpsr]
  cases sf <;> rfl

/-- MUL and MLA (R220, R221), with `r` the value of the product and sum. -/
theorem multiplyEffect_eq (sf : Bool) (rd rs rm : Reg) (acc : State → Word) (extra : Nat) (s : State)
    {usesPc pcUsed : Bool} (used : usesPc = pcUsed) {r : Word} (value : s.armReg rm * s.armReg rs + acc s = r) :
    multiplyEffect sf rd rs rm acc extra usesPc s =
      let t := (s.noted (rd = rm) (.unpredictable .mulRdRm)).noted pcUsed (.unpredictable .mulR15)
      State.ended
        { t with
          tally := s.tally + (mulCycles (s.armReg rs) true + extra)
          cpsr := if sf then flagsWord s.cpsr (decide (r.toInt < 0)) (decide (r.toNat = 0)) (s.cpsr.getLsbD 29)
            (s.cpsr.getLsbD 28) else s.cpsr }
        4 rd r := by
  unfold multiplyEffect
  rw [value, used, writeArm_eq_ended, nzFlags_eq, charged_flagged]
  rfl

/-- One half of a long product in the words of the statements: r15 takes it as a jump (R222). -/
theorem writeLong_eq (rd : Reg) (v : Word) (s : State) :
    writeLong rd v s = if rd = 15 then s.jumped v else { s with gpr := s.gpr.set (gprSlot rd s.mode) v } := by
  unfold writeLong
  split
  · exact writePc_eq_jumped v s
  · next h => exact setReg_of_ne h v s

/-- A half written to a register other than r15 leaves `pc` alone (R222). -/
theorem writeLong_pc {rd : Reg} (h : rd ≠ 15) (v : Word) (s : State) : (writeLong rd v s).pc = s.pc := by
  rw [writeLong_eq, if_neg h]

/-- The end of a long multiply: `pc` moves past the instruction unless a half was written to it (R27, R222). -/
theorem finishLong_eq (rdHi rdLo : Reg) (hi lo : Word) {s t : State} (pc : t.pc = s.pc) :
    let y := writeLong rdHi hi (writeLong rdLo lo t)
    (if rdHi = 15 ∨ rdLo = 15 then y else advanceArm y) =
      if rdHi = 15 ∨ rdLo = 15 then y else { y with pc := s.pc + 4 } := by
  intro y
  split
  · rfl
  · next h =>
    obtain ⟨hHi, hLo⟩ := not_or.mp h
    have kept : y.pc = s.pc := (writeLong_pc hHi ..).trans ((writeLong_pc hLo ..).trans pc)
    rw [← kept]
    rfl

/-- The 64 bits of a long multiply: the product, if asked with RdHi:RdLo added (R222). -/
def longValue (signed acc : Bool) (rdHi rdLo rs rm : Reg) (s : State) : BitVec 64 :=
  let product := longProduct signed (s.armReg rm) (s.armReg rs)
  if acc then product + (s.armReg rdHi ++ s.armReg rdLo) else product

/-- The long multiplies (R222), with `p` the value of the product and sum. -/
theorem multiplyLongEffect_eq (signed acc sf : Bool) (rdHi rdLo rs rm : Reg) (s : State) {p : BitVec 64}
    (value : longValue signed acc rdHi rdLo rs rm s = p) :
    multiplyLongEffect signed acc sf rdHi rdLo rs rm s =
      let t := (s.noted (rdHi = rdLo ∨ rdHi = rm ∨ rdLo = rm) (.unpredictable .mullOverlap)).noted
        (rdHi = 15 ∨ rdLo = 15 ∨ rs = 15 ∨ rm = 15) (.unpredictable .mullR15)
      let v : State :=
        { t with
          tally := s.tally + (mulCycles (s.armReg rs) signed + if acc then 2 else 1)
          cpsr := if sf then flagsWord s.cpsr (decide (p.toInt < 0)) (decide (p.toNat = 0)) (s.cpsr.getLsbD 29)
            (s.cpsr.getLsbD 28) else s.cpsr }
      let y := writeLong rdHi (BitVec.ofNat 32 (p.toNat / 2 ^ 32))
        (writeLong rdLo (BitVec.ofNat 32 (p.toNat % 2 ^ 32)) v)
      if rdHi = 15 ∨ rdLo = 15 then y else { y with pc := s.pc + 4 } := by
  unfold longValue at value
  unfold multiplyLongEffect
  dsimp only at value ⊢
  rw [value, anyEqual_four, anyEqual_three, nzFlags64_eq, charged_flagged, extract_low_eq, extract_high_eq,
    finishLong_eq (s := s)]
  · rfl
  · exact (State.logIf_pc ..).trans (State.logIf_pc ..)

/-! ### The instructions -/

/-- Settles O36: `multiplyEffect_eq` with the value of each instruction in numbers. -/
theorem armMultiply : Obligations.ArmMultiply := by
  intro s c sf rd rn rs rm hc product after
  have mulValue : s.armReg rm * s.armReg rs + 0 = BitVec.ofNat 32 product :=
    (BitVec.add_zero _).trans (mul_eq_ofNat ..)
  have mlaValue : s.armReg rm * s.armReg rs + s.armReg rn = BitVec.ofNat 32 (product + (s.armReg rn).toNat) :=
    mul_add_eq_ofNat ..
  exact ⟨gated_next hc (multiplyEffect_eq sf rd rs rm (fun _ => 0) 0 s (anyEqual_three ..) mulValue),
    gated_next hc (multiplyEffect_eq sf rd rs rm (fun s => s.armReg rn) 1 s (anyEqual_four ..) mlaValue)⟩

/-- Settles O37: `multiplyLongEffect_eq` with the value of each instruction in numbers. -/
theorem armMultiplyLong : Obligations.ArmMultiplyLong := by
  intro s c sf rdHi rdLo rs rm hc u i acc put after
  have put_eq : put = fun t rd v => writeLong rd v t := by
    funext t rd v
    exact (writeLong_eq ..).symm
  have unsigned : longProduct false (s.armReg rm) (s.armReg rs) = BitVec.ofInt 64 u := longProduct_unsigned ..
  have signed : longProduct true (s.armReg rm) (s.armReg rs) = BitVec.ofInt 64 i := longProduct_signed ..
  have effect {sg ac : Bool} {x : Int} (value : longValue sg ac rdHi rdLo rs rm s = BitVec.ofInt 64 x) :
      gated c (multiplyLongEffect sg ac sf rdHi rdLo rs rm) s = .next (after x sg (if ac then 2 else 1)) := by
    refine gated_next hc ?_
    simp only [after, put_eq]
    exact multiplyLongEffect_eq (value := value) ..
  exact ⟨effect unsigned, effect (add_append_eq_ofInt unsigned ..), effect signed,
    effect (add_append_eq_ofInt signed ..)⟩

end Sys2Proof.Machine

/-! PROOFS. The ARM single and halfword transfers and the swap (R230 to R243, R256, R257): the addresses of the forms,
then each of the three effects said once in the words of the statements, for any access. -/

namespace Sys2Proof.Machine

/-! ### The addresses -/

/-- Settles O38: the offset of each form as a number; the rest is the definition of the two addressing modes (R238,
R239). -/
theorem transferAddresses : Obligations.TransferAddresses := by
  intro s up rn base moved
  refine ⟨fun off12 w => ?_, fun rm kind imm5 w => ⟨rfl, rfl⟩, fun off8 w => ?_, fun rm w => ⟨rfl, rfl⟩⟩
  · rw [BitVec.ofNat_toNat]
    exact ⟨rfl, rfl⟩
  · rw [BitVec.ofNat_toNat]
    exact ⟨rfl, rfl⟩

/-! ### The effects -/

/-- The write-back of a base in the words of the statements (R238). -/
theorem writeBack_eq_based (rn : Reg) (v : Word) (wb : Bool) (s : State) : writeBack rn v wb s = s.based rn v wb := by
  cases wb
  case false => rfl
  case true =>
    by_cases h : rn = 15
    · simp only [writeBack, State.based, h, if_true]
      rfl
    · simp only [writeBack, State.based, h, if_true, if_false, setReg_of_ne h]
      rfl

/-- The write-back of a base leaves `pc` alone. -/
theorem based_pc (s : State) (rn : Reg) (v : Word) (wb : Bool) : (s.based rn v wb).pc = s.pc := by
  rw [← writeBack_eq_based]
  exact (writeBack_before ..).pc

/-- A load by any access: the state after the access, then the base, the cycle and the destination (R230). -/
theorem loadEffect_eq_loaded (load : Word → State → Word × State) (x : Addressed) (rn rd : Reg) (toPc : Option Reason)
    (s : State) :
    loadEffect load x rn rd toPc s =
      let r := load x.addr (s.noted x.pcOffset (.unpredictable .offsetR15))
      r.2.loaded rn x rd r.1 toPc := by
  unfold loadEffect
  dsimp only
  rw [writeArm_eq_ended, writeBack_eq_based]
  cases toPc <;> rfl

/-- A store by any access: r15 is stored as `A + 12`, and the base is written after it (R231). -/
theorem storeEffect_eq_stored (store : Word → Word → State → State) (x : Addressed) (rn rd : Reg) (s : State) :
    storeEffect store x rn rd s =
      (store x.addr (if rd = 15 then s.pc + 12 else s.gpr[gprSlot rd s.mode])
        (s.noted x.pcOffset (.unpredictable .offsetR15))).stored rn x := by
  unfold storeEffect State.stored
  rw [writeBack_eq_based, reg_eq, logIf_eq_noted]
  exact congrArg (fun p => State.withPc _ (p + 4)) (based_pc ..)

/-- A swap by any pair of accesses: the load, the store of the source, one cycle, the destination (R256). -/
theorem swapEffect_eq_ended (load : Word → State → Word × State) (store : Word → Word → State → State)
    (rn rd rm : Reg) (s : State) :
    swapEffect load store rn rd rm s =
      let r := load (s.armReg rn) (s.noted (rn = 15 ∨ rd = 15 ∨ rm = 15) (.unpredictable .swpR15))
      let t := store (s.armReg rn) (s.armReg rm) r.2
      State.ended { t with tally := t.tally + 1 } 4 rd r.1 := by
  unfold swapEffect
  dsimp only
  rw [writeArm_eq_ended, anyEqual_three]
  rfl

/-! ### The instructions -/

/-- Settles O46: `loadEffect_eq_loaded` with the access and the event of each instruction. -/
theorem armLoads : Obligations.ArmLoads := by
  intro s c up rn rd hc
  have effect (load : Word → State → Word × State) (x : State → Addressed) (toPc : Option Reason) :
      gated c (fun s => loadEffect load (x s) rn rd toPc s) s = .next (
        let r := load (x s).addr (s.noted (x s).pcOffset (.unpredictable .offsetR15))
        r.2.loaded rn (x s) rd r.1 toPc) := gated_next hc (loadEffect_eq_loaded ..)
  refine ⟨fun ix off => ?_, fun ix off => ?_⟩
  · have single (ix : Index) := fun load => effect load fun s => addrSingle s ix up off rn
    exact ⟨single ix loadWord none, single ix loadByte _, single .post loadWord none, single .post loadByte _⟩
  · have half := fun load => effect load fun s => addrHalf s ix up off rn
    exact ⟨half loadHalf _, half loadSignedByte _, half loadSignedHalf _⟩

/-- Settles O47: `storeEffect_eq_stored` with the access of each instruction. -/
theorem armStores : Obligations.ArmStores := by
  intro s c up rn rd hc v
  have effect (store : Word → Word → State → State) (x : State → Addressed) :
      gated c (fun s => storeEffect store (x s) rn rd s) s = .next
        ((store (x s).addr v (s.noted (x s).pcOffset (.unpredictable .offsetR15))).stored rn (x s)) :=
    gated_next hc (storeEffect_eq_stored ..)
  refine ⟨fun ix off => ?_, fun ix off => ?_⟩
  · have single (ix : Index) := fun store => effect store fun s => addrSingle s ix up off rn
    exact ⟨single ix storeWord, single ix storeByte, single .post storeWord, single .post storeByte⟩
  · exact effect storeHalf fun s => addrHalf s ix up off rn

/-- Settles O48: `swapEffect_eq_ended` with the accesses of each instruction. -/
theorem armSwap : Obligations.ArmSwap := fun _ _ _ _ _ hc =>
  ⟨gated_next hc (swapEffect_eq_ended ..), gated_next hc (swapEffect_eq_ended ..)⟩

end Sys2Proof.Machine

/-! PROOFS. The plan of a block transfer (R252, R254, R255). -/

namespace Sys2Proof.Machine

theorem blockRegs_of_ne {list : BitVec 16} (h : list ≠ 0) :
    blockRegs list = (List.finRange 16).filter fun r => list.getLsbD r.val := if_neg h

/-- The registers of a non-empty list are those of its one bits (R252). -/
theorem mem_blockRegs {list : BitVec 16} (h : list ≠ 0) (r : Reg) : r ∈ blockRegs list ↔ list.getLsbD r.val = true := by
  rw [blockRegs_of_ne h, List.mem_filter]
  exact and_iff_right (List.mem_finRange r)

/-- The registers of a list ascend (R252). -/
theorem blockRegs_ascending (list : BitVec 16) : (blockRegs list).Pairwise fun a b => a.val < b.val := by
  unfold blockRegs
  split
  · exact List.pairwise_singleton ..
  · exact List.Pairwise.filter _ (List.pairwise_lt_finRange 16)

/-- The registers of a list are distinct. -/
theorem blockRegs_nodup (list : BitVec 16) : (blockRegs list).Nodup :=
  (blockRegs_ascending list).imp fun lt e => absurd (congrArg Fin.val e) (Nat.ne_of_lt lt)

/-- r15 is the last register of a list that holds it. -/
theorem blockRegs_eq_append {list : BitVec 16} (h : (15 : Reg) ∈ blockRegs list) :
    ∃ init, blockRegs list = init ++ [15] := by
  obtain ⟨init, tail, split⟩ := List.append_of_mem h
  have ascending := blockRegs_ascending list
  rw [split, List.pairwise_append, List.pairwise_cons] at ascending
  obtain ⟨_, ⟨above, _⟩, _⟩ := ascending
  have empty : tail = [] := List.eq_nil_iff_forall_not_mem.mpr fun r hr => by
    have := above r hr
    have := r.isLt
    omega
  exact ⟨init, split.trans (by rw [empty])⟩

theorem blockRegs_length_le (list : BitVec 16) : (blockRegs list).length ≤ 16 := by
  unfold blockRegs
  split
  · decide
  · exact Nat.le_trans (List.length_filter_le ..) (Nat.le_of_eq List.length_finRange)

theorem blockSpan_toNat {list : BitVec 16} (h : list ≠ 0) : (blockSpan list).toNat = 4 * (blockRegs list).length := by
  have := blockRegs_length_le list
  rw [blockSpan, if_neg h, BitVec.toNat_ofNat]
  omega

theorem blockPlan_regs (mode : BlockMode) (list : BitVec 16) (base : Word) :
    (blockPlan mode list base).regs = blockRegs list := by cases mode <;> rfl

/-- Settles O39: the registers by the bits of the list; the addresses are those of each mode's row (R255). -/
theorem blockTransferPlan : Obligations.BlockTransferPlan := by
  intro list base
  refine ⟨?_, fun h => ⟨mem_blockRegs h, blockRegs_ascending list, blockSpan_toNat h⟩,
    fun mode => blockPlan_regs mode list base, ⟨rfl, rfl⟩, ⟨rfl, rfl⟩, ⟨rfl, rfl⟩, rfl, rfl⟩
  rintro rfl
  exact ⟨rfl, rfl⟩

end Sys2Proof.Machine

/-! PROOFS. Accesses that storage of the core answers alone (R60, R61, R76 to R80, R100): a read gives the bytes there
and is accounted once; a write to work RAM stores its bytes, which their mirrors show, and no other byte. -/

namespace Sys2Proof.Machine

/-! ### Where the devices lie -/

/-- The register cells lie in the first 0x400 bytes of the I/O region (R38, R463). -/
theorem cellAt_range {p : Config.Params} {n : Nat} (h : (cellAt p n).isSome = true) :
    0x04000000 ≤ n ∧ n < 0x04000400 := by
  obtain ⟨cell, hc, covers⟩ := List.find?_isSome.mp h
  have range : ∀ c ∈ dmaCells ++ coreCells, 0x04000000 ≤ c.base ∧ c.base + c.width ≤ 0x04000400 := by decide
  have listed : cell ∈ dmaCells ++ coreCells := by
    unfold allCells at hc
    split at hc
    · exact hc
    · exact List.mem_append_right _ hc
  have := range cell listed
  simp only [Cell.covers, Bool.and_eq_true, decide_eq_true_eq] at covers
  omega

theorem isCart_iff (a : Word) : isCart a = true ↔ 0x08000000 ≤ a.toNat ∧ a.toNat < 0x0E000000 := by
  simp only [isCart, Bool.and_eq_true, decide_eq_true_eq]

/-- An address beyond the core's storage belongs to the register cells, an external device or nothing (R73). -/
theorem extDevice_external (devices : List Config.ExtDevice) (n : Nat) :
    (∃ d, extDevice devices n = .ext d) ∨ extDevice devices n = .none := by
  unfold extDevice
  split
  · exact .inl ⟨_, rfl⟩
  · exact .inr rfl

theorem device_eq_bios_iff (p : Config.Params) (a : Word) : device p a = .bios ↔ a.toNat < 0x4000 := by
  have outer := extDevice_external p.extDevices a.toNat
  unfold device Config.biosSize
  grind

theorem device_eq_ewram_iff (p : Config.Params) (a : Word) :
    device p a = .ewram ↔ 0x02000000 ≤ a.toNat ∧ a.toNat < 0x03000000 := by
  have outer := extDevice_external p.extDevices a.toNat
  unfold device Config.biosSize
  grind

theorem device_eq_iwram_iff (p : Config.Params) (a : Word) :
    device p a = .iwram ↔ 0x03000000 ≤ a.toNat ∧ a.toNat < 0x04000000 := by
  have outer := extDevice_external p.extDevices a.toNat
  unfold device Config.biosSize
  grind

theorem device_eq_io_iff (p : Config.Params) (a : Word) : device p a = .io ↔ (cellAt p a.toNat).isSome = true := by
  have outer := extDevice_external p.extDevices a.toNat
  have cells := @cellAt_range p a.toNat
  unfold device Config.biosSize
  grind

theorem device_eq_cart_iff (p : Config.Params) (a : Word) :
    device p a = .cart ↔ 0x08000000 ≤ a.toNat ∧ a.toNat < 0x0E000000 := by
  have outer := extDevice_external p.extDevices a.toNat
  have cells := @cellAt_range p a.toNat
  have cart := isCart_iff a
  unfold device Config.biosSize
  grind

/-! ### The bytes of an aligned access -/

/-- The bytes of an aligned access do not wrap around. -/
theorem toNat_add_lane {w : Width} {a : Word} (h : a.toNat % w.size = 0) {i : Nat} (hi : i < w.size) :
    (a + BitVec.ofNat 32 i).toNat = a.toNat + i := by
  have bound := a.isLt
  rw [BitVec.toNat_add, BitVec.toNat_ofNat]
  cases w <;> simp only [Width.size] at h hi <;> omega

/-- The bytes of an aligned access lie below every word boundary that its address lies below. -/
theorem add_lane_lt {w : Width} {a : Word} (h : a.toNat % w.size = 0) {i : Nat} (hi : i < w.size) (n : Nat)
    (ha : a.toNat < 4 * n) : (a + BitVec.ofNat 32 i).toNat < 4 * n := by
  rw [toNat_add_lane h hi]
  cases w <;> simp only [Width.size] at h hi <;> omega

/-- The bytes of an aligned access to a device with one range belong to that device (R73). -/
theorem device_add_lane {p : Config.Params} {w : Width} {a : Word} (h : a.toNat % w.size = 0)
    (hd : device p a = .bios ∨ device p a = .ewram ∨ device p a = .iwram ∨ device p a = .cart) {i : Nat}
    (hi : i < w.size) : device p (a + BitVec.ofNat 32 i) = device p a := by
  have lane := toNat_add_lane h hi
  have below := @add_lane_lt w a h i hi
  rcases hd with hd | hd | hd | hd <;> rw [hd]
  · rw [device_eq_bios_iff] at *
    exact below 0x1000 hd
  · rw [device_eq_ewram_iff] at *
    exact ⟨by omega, below 0xC00000 hd.2⟩
  · rw [device_eq_iwram_iff] at *
    exact ⟨by omega, below 0x1000000 hd.2⟩
  · rw [device_eq_cart_iff] at *
    exact ⟨by omega, below 0x3800000 hd.2⟩

/-- The value of the bytes `f`, bit by bit (R60). -/
theorem fromBytes_getLsbD (f : Nat → Byte) (n : Nat) {j : Nat} (hj : j < 32) :
    (fromBytes f n).getLsbD j = (decide (j < 8 * n) && (f (j / 8)).getLsbD (j % 8)) := by
  induction n with
  | zero => simp [fromBytes]
  | succ n ih =>
    rw [fromBytes, BitVec.getLsbD_or, ih, BitVec.getLsbD_shiftLeft, BitVec.getLsbD_setWidth]
    by_cases below : j < 8 * n
    · simp [below, show j < 8 * (n + 1) by omega]
    · by_cases inside : j < 8 * (n + 1)
      · simp [below, inside, hj, show j / 8 = n by omega, show j - 8 * n = j % 8 by omega,
          show j % 8 < 32 by omega]
      · simp [below, inside, BitVec.getLsbD_of_ge _ _ (show 8 ≤ j - 8 * n by omega)]

theorem fromBytes_congr {f g : Nat → Byte} {n : Nat} (h : ∀ i, i < n → f i = g i) : fromBytes f n = fromBytes g n := by
  induction n with
  | zero => rfl
  | succ n ih => rw [fromBytes, fromBytes, ih fun i hi => h i (by omega), h n (by omega)]

/-- The lowest byte joined with the bytes above it. -/
theorem fromBytes_succ_low (f : Nat → Byte) (n : Nat) :
    fromBytes f (n + 1) = joinParts 1 ((f 0).setWidth 32) (fromBytes (fun i => f (i + 1)) n) := by
  apply BitVec.eq_of_getLsbD_eq
  intro j hj
  rw [joinParts, BitVec.getLsbD_or, BitVec.getLsbD_shiftLeft, BitVec.getLsbD_setWidth, fromBytes_getLsbD _ _ hj,
    fromBytes_getLsbD _ _ (show j - 8 * 1 < 32 by omega)]
  by_cases low : j < 8
  · simp [low, hj, show j / 8 = 0 by omega, show j % 8 = j by omega, show j < 8 * (n + 1) by omega]
  · simp [low, hj, show (j - 8) / 8 + 1 = j / 8 by omega, show (j - 8) % 8 = j % 8 by omega,
      show j - 8 < 8 * n ↔ j < 8 * (n + 1) by omega, BitVec.getLsbD_of_ge _ _ (show 8 ≤ j by omega)]

/-- A byte below a wider value, as the two parts joined. -/
theorem setWidth_append_byte {n : Nat} (x : BitVec n) (b : Byte) :
    (x ++ b).setWidth 32 = joinParts 1 (b.setWidth 32) (x.setWidth 32) := by
  apply BitVec.eq_of_getLsbD_eq
  intro j hj
  rw [joinParts, BitVec.getLsbD_or, BitVec.getLsbD_shiftLeft, BitVec.getLsbD_setWidth, BitVec.getLsbD_append,
    BitVec.getLsbD_setWidth, BitVec.getLsbD_setWidth]
  by_cases low : j < 8
  · simp [low, hj]
  · simp [low, hj, show j - 8 < 32 by omega, BitVec.getLsbD_of_ge _ _ (show 8 ≤ j by omega)]

/-- What a width reads without effect is its bytes, low byte first (R60). -/
theorem peek_eq_fromBytes (s : State) (w : Width) (a : Word) :
    peek s w a = fromBytes (fun i => peekByte s (a + BitVec.ofNat 32 i)) w.size := by
  have top (x : Word) (f : Nat → Byte) : joinParts 1 x (fromBytes f 0) = x := by simp [joinParts, fromBytes]
  have whole (x : Word) : x = x.setWidth 32 := (BitVec.setWidth_eq x).symm
  cases w with
  | byte => simp only [peek, Width.size, fromBytes_succ_low, top, BitVec.add_zero]
  | half => simp only [peek, Width.size, fromBytes_succ_low, top, setWidth_append_byte, BitVec.add_zero]; rfl
  | word =>
    rw [peek, whole (_ ++ _)]
    simp only [Width.size, fromBytes_succ_low, top, setWidth_append_byte, BitVec.add_zero]
    rfl

/-! ### Reads -/

theorem memRead_of_native {w : Width} {a : Word} {s : State} {r : Word × State} (h : nativeRead w a s = some r) :
    memRead w a s = r := by
  cases w <;> simp only [memRead, read8, read16, read32, h, Option.getD_some]

theorem peekCost_of_native {s : State} {w : Width} {a : Word} {seq : Bool} {c : Nat}
    (h : nativePeek s w a seq = some c) : peekCost s w a seq = c := by
  cases w <;> simp only [peekCost, h, Option.getD_some]

/-- One access at the cost a look at it gives (R100, R108). -/
theorem account_eq_accessed {s : State} {w : Width} {a : Word} {c : Nat}
    (h : nativePeek s w a (isSequential s a) = some c) : account a w.size c s = s.accessed w a := by
  rw [State.accessed, peekCost_of_native h]
  rfl

/-- A read of register cells gives their bytes and has no effect (R91, R93). -/
theorem ioBytes_of_cells (s : State) (n : Nat) (a : Word)
    (h : ∀ i, i < n → (cellAt s.params (a + BitVec.ofNat 32 i).toNat).isSome = true) :
    ioBytes a n s = (fromBytes (fun i => peekByte s (a + BitVec.ofNat 32 i)) n, s) := by
  induction n generalizing a with
  | zero => rfl
  | succ n ih =>
    have next (i : Nat) : a + BitVec.ofNat 32 (i + 1) = a + 1 + BitVec.ofNat 32 i := by
      rw [BitVec.add_assoc, Nat.add_comm i 1, BitVec.ofNat_add]
      rfl
    have first := h 0 (by omega)
    rw [BitVec.add_zero] at first
    have rest := ih (a + 1) fun i hi => next i ▸ h (i + 1) (by omega)
    obtain ⟨cell, found⟩ := Option.isSome_iff_exists.mp first
    have byte : peekByte s a = byteOf (cell.onRead s) (a.toNat - cell.base) := by
      simp only [peekByte, (device_eq_io_iff s.params a).mpr first, found]
    rw [ioBytes, fromBytes_succ_low]
    simp only [found, rest, byte, next, BitVec.add_zero]

/-- The cells of a read cost nothing beside the access itself (R101). -/
theorem ioOuterPeek_of_cells {s : State} {a : Word} {n : Nat}
    (h : ∀ i, i < n → (cellAt s.params (a + BitVec.ofNat 32 i).toNat).isSome = true) : ioOuterPeek s a n = 0 := by
  induction n with
  | zero => rfl
  | succ n ih => simp only [ioOuterPeek, ih fun i hi => h i (by omega), h n (by omega), if_true]

/-- The bytes of a cartridge access within the image log nothing (R80). -/
theorem logBeyondRom_of_within {s : State} {a : Word} {n : Nat}
    (h : ∀ i, i < n → cartOffset (a + BitVec.ofNat 32 i) < s.params.romSize) : logBeyondRom a n s = s := by
  induction n with
  | zero => rfl
  | succ n ih =>
    rw [logBeyondRom, ih fun i hi => h i (by omega), decide_eq_false (by have := h n (by omega); omega)]
    rfl

theorem cartOffset_eq (a : Word) : cartOffset a = a.toNat % 0x02000000 := by
  rw [cartOffset, BitVec.toNat_and]
  exact Nat.and_two_pow_sub_one_eq_mod a.toNat 25

/-- The bytes of an aligned cartridge access lie side by side in the image. -/
theorem cartOffset_add_lane {w : Width} {a : Word} (h : a.toNat % w.size = 0) {i : Nat} (hi : i < w.size) :
    cartOffset (a + BitVec.ofNat 32 i) = cartOffset a + i := by
  rw [cartOffset_eq, cartOffset_eq, toNat_add_lane h hi]
  cases w <;> simp only [Width.size] at h hi <;> omega

theorem plainAccess_aligned {s : State} {w : Width} {a : Word} (h : plainAccess s w a = true) :
    a.toNat % w.size = 0 := of_decide_eq_true (Bool.and_eq_true_iff.mp h).1

/-- What storage of the core or register cells answer alone, at the cost a look gives (R86, R100). -/
theorem nativeRead_of_plain {s : State} {w : Width} {a : Word} (h : plainAccess s w a = true) :
    nativeRead w a s = some (peek s w a, s.accessed w a) := by
  have aligned := plainAccess_aligned h
  have storage := (Bool.and_eq_true_iff.mp h).2
  have answer {f : Nat → Byte} {c : Nat} (read : nativeRead w a s = some (fromBytes f w.size, account a w.size c s))
      (look : nativePeek s w a (isSequential s a) = some c)
      (bytes : ∀ i, i < w.size → f i = peekByte s (a + BitVec.ofNat 32 i)) :
      nativeRead w a s = some (peek s w a, s.accessed w a) := by
    rw [read, peek_eq_fromBytes, fromBytes_congr bytes, account_eq_accessed look]
  cases hd : device s.params a with
  | bios =>
    refine answer (by simp only [nativeRead, hd]; rfl) (by simp only [nativePeek, hd]) fun i hi => ?_
    simp only [peekByte, device_add_lane aligned (.inl hd) hi, hd, toNat_add_lane aligned hi]
  | ewram =>
    refine answer (by simp only [nativeRead, hd]; rfl) (by simp only [nativePeek, hd]) fun i hi => ?_
    simp only [peekByte, device_add_lane aligned (.inr (.inl hd)) hi, hd]
  | iwram =>
    refine answer (by simp only [nativeRead, hd]; rfl) (by simp only [nativePeek, hd]) fun i hi => ?_
    simp only [peekByte, device_add_lane aligned (.inr (.inr (.inl hd))) hi, hd]
  | io =>
    simp only [hd, List.all_eq_true, List.mem_range] at storage
    refine answer ?_ (c := 1) (by simp only [nativePeek, hd, ioOuterPeek_of_cells storage]) fun i hi => rfl
    simp only [nativeRead, hd, ioRead, ioBytes_of_cells (account a w.size 1 s) _ _ storage]
    rfl
  | cart =>
    simp only [hd, decide_eq_true_eq] at storage
    have within (i : Nat) (hi : i < w.size) : cartOffset (a + BitVec.ofNat 32 i) < s.params.romSize := by
      rw [cartOffset_add_lane aligned hi]
      omega
    refine answer (by simp only [nativeRead, hd, logBeyondRom_of_within within]; rfl) (by simp only [nativePeek, hd])
      fun i hi => ?_
    simp only [peekByte, device_add_lane aligned (.inr (.inr (.inr hd))) hi, hd]
  | ext d => simp [hd] at storage
  | none => simp [hd] at storage

/-- A read that storage of the core or register cells answer alone gives the bytes there and is accounted once (R60,
R61, R86, R100). -/
theorem memRead_of_plain {s : State} {w : Width} {a : Word} (h : plainAccess s w a = true) :
    memRead w a s = (peek s w a, s.accessed w a) := memRead_of_native (nativeRead_of_plain h)

/-! ### Writes to work RAM -/

/-- An address of work RAM (R76, R77). -/
def isRam (p : Config.Params) (a : Word) : Prop := device p a = .ewram ∨ device p a = .iwram

theorem memWrite_of_native {w : Width} {a v : Word} {s t : State} (h : nativeWrite w a v s = some t) :
    memWrite w a v s = t := by
  cases w <;> simp only [memWrite, write8, write16, write32, h, Option.getD_some]

/-- A write to EWRAM is accounted once and stores its bytes (R76, R88). -/
theorem memWrite_ewram {s : State} {w : Width} {a : Word} (h : device s.params a = .ewram) (v : Word) :
    memWrite w a v s = (s.accessed w a).withEwram
      (s.ewram.setBytes (fun i => ewramOffset (a + BitVec.ofNat 32 i)) (byteOf v) w.size) := by
  rw [← account_eq_accessed (c := ewramCost w) (by simp only [nativePeek, h])]
  exact memWrite_of_native (by simp only [nativeWrite, h])

/-- A write to IWRAM is accounted once and stores its bytes (R77, R88). -/
theorem memWrite_iwram {s : State} {w : Width} {a : Word} (h : device s.params a = .iwram) (v : Word) :
    memWrite w a v s = (s.accessed w a).withIwram
      (s.iwram.setBytes (fun i => iwramOffset (a + BitVec.ofNat 32 i)) (byteOf v) w.size) := by
  rw [← account_eq_accessed (c := 1) (by simp only [nativePeek, h])]
  exact memWrite_of_native (by simp only [nativeWrite, h])

/-- A write to work RAM changes the accounting and that memory alone. -/
theorem memWrite_ram_frame {s : State} {w : Width} {a : Word} (h : isRam s.params a) (v : Word) :
    memWrite w a v s =
      { s.accessed w a with ewram := (memWrite w a v s).ewram, iwram := (memWrite w a v s).iwram } := by
  rcases h with h | h
  · rw [memWrite_ewram h]
    rfl
  · rw [memWrite_iwram h]
    rfl

theorem ewramOffset_eq (a : Word) : ewramOffset a = a.toNat % 0x40000 := by
  rw [ewramOffset, BitVec.toNat_and]
  exact Nat.and_two_pow_sub_one_eq_mod a.toNat 18

theorem iwramOffset_eq (a : Word) : iwramOffset a = a.toNat % 0x8000 := by
  rw [iwramOffset, BitVec.toNat_and]
  exact Nat.and_two_pow_sub_one_eq_mod a.toNat 15

theorem place_eq_ewram_iff (p : Config.Params) (a : Word) (k : Nat) :
    place p a = .ewram k ↔ device p a = .ewram ∧ ewramOffset a = k := by
  unfold place
  cases device p a <;> simp

theorem place_eq_iwram_iff (p : Config.Params) (a : Word) (k : Nat) :
    place p a = .iwram k ↔ device p a = .iwram ∧ iwramOffset a = k := by
  unfold place
  cases device p a <;> simp

/-- Mirrors of a byte of work RAM lie whole multiples of the smaller memory apart (R76, R77). -/
theorem place_ram_mod {p : Config.Params} {a b : Word} (ha : isRam p a) (h : place p b = place p a) :
    b.toNat % 0x8000 = a.toNat % 0x8000 := by
  rcases ha with ha | ha
  · obtain ⟨_, offset⟩ := (place_eq_ewram_iff p b _).mp (h.trans ((place_eq_ewram_iff p a _).mpr ⟨ha, rfl⟩))
    rw [ewramOffset_eq, ewramOffset_eq] at offset
    omega
  · obtain ⟨_, offset⟩ := (place_eq_iwram_iff p b _).mp (h.trans ((place_eq_iwram_iff p a _).mpr ⟨ha, rfl⟩))
    rwa [iwramOffset_eq, iwramOffset_eq] at offset

/-- What every byte reads as after a write to EWRAM. -/
theorem peekByte_memWrite_ewram {s : State} {w : Width} {a : Word} (h : device s.params a = .ewram) (v b : Word) :
    peekByte (memWrite w a v s) b =
      if device s.params b = .ewram then
        (s.ewram.setBytes (fun i => ewramOffset (a + BitVec.ofNat 32 i)) (byteOf v) w.size).get (ewramOffset b)
      else peekByte s b := by
  rw [memWrite_ewram h]
  simp only [peekByte, State.withEwram_params, accessed_params]
  cases device s.params b <;> rfl

/-- What every byte reads as after a write to IWRAM. -/
theorem peekByte_memWrite_iwram {s : State} {w : Width} {a : Word} (h : device s.params a = .iwram) (v b : Word) :
    peekByte (memWrite w a v s) b =
      if device s.params b = .iwram then
        (s.iwram.setBytes (fun i => iwramOffset (a + BitVec.ofNat 32 i)) (byteOf v) w.size).get (iwramOffset b)
      else peekByte s b := by
  rw [memWrite_iwram h]
  simp only [peekByte, State.withIwram_params, accessed_params]
  cases device s.params b <;> rfl

section Write

variable {s : State} (hm : s.MemoriesOk) {w : Width} {a : Word} (aligned : a.toNat % w.size = 0)
  (ram : isRam s.params a) (v : Word)
include hm aligned ram

/-- A byte outside those written and their mirrors is kept (R61). -/
theorem peekByte_memWrite_other {b : Word}
    (h : ∀ i, i < w.size → place s.params b ≠ place s.params (a + BitVec.ofNat 32 i)) :
    peekByte (memWrite w a v s) b = peekByte s b := by
  rcases ram with ram | ram
  · rw [peekByte_memWrite_ewram ram]
    split
    next hb =>
      rw [Memory.get_setBytes_other (Memory.ok_iff.mp hm.ewram).1]
      · simp only [peekByte, hb]
      · intro i hi offset
        have lane := (device_add_lane aligned (.inr (.inl ram)) hi).trans ram
        exact h i hi (by simp only [place, hb, lane, offset])
    next => rfl
  · rw [peekByte_memWrite_iwram ram]
    split
    next hb =>
      rw [Memory.get_setBytes_other (Memory.ok_iff.mp hm.iwram).1]
      · simp only [peekByte, hb]
      · intro i hi offset
        have lane := (device_add_lane aligned (.inr (.inr (.inl ram))) hi).trans ram
        exact h i hi (by simp only [place, hb, lane, offset])
    next => rfl

/-- A byte written reads as stored, at its address and its mirrors (R60, R61). -/
theorem peekByte_memWrite_same {b : Word} {i : Nat} (hi : i < w.size)
    (h : place s.params b = place s.params (a + BitVec.ofNat 32 i)) :
    peekByte (memWrite w a v s) b = byteOf v i := by
  have lanes := fun j => @toNat_add_lane w a aligned j
  have size : w.size ≤ 4 := by cases w <;> decide
  rcases ram with ram | ram
  · have lane := (device_add_lane aligned (.inr (.inl ram)) hi).trans ram
    obtain ⟨hb, offset⟩ := (place_eq_ewram_iff s.params b _).mp (h.trans ((place_eq_ewram_iff ..).mpr ⟨lane, rfl⟩))
    rw [peekByte_memWrite_ewram ram, if_pos hb, offset]
    refine Memory.get_setBytes (Memory.ok_iff.mp hm.ewram).1 _ _ _ _ hi fun j k hj hk e => ?_
    rw [ewramOffset_eq, ewramOffset_eq, lanes j hj, lanes k hk] at e
    omega
  · have lane := (device_add_lane aligned (.inr (.inr (.inl ram))) hi).trans ram
    obtain ⟨hb, offset⟩ := (place_eq_iwram_iff s.params b _).mp (h.trans ((place_eq_iwram_iff ..).mpr ⟨lane, rfl⟩))
    rw [peekByte_memWrite_iwram ram, if_pos hb, offset]
    refine Memory.get_setBytes (Memory.ok_iff.mp hm.iwram).1 _ _ _ _ hi fun j k hj hk e => ?_
    rw [iwramOffset_eq, iwramOffset_eq, lanes j hj, lanes k hk] at e
    omega

end Write

/-- The bytes of a word make it up again (R60). -/
theorem fromBytes_byteOf (v : Word) : fromBytes (byteOf v) 4 = v := by
  apply BitVec.eq_of_getLsbD_eq
  intro j hj
  rw [fromBytes_getLsbD _ _ hj, byteOf, BitVec.getLsbD_extractLsb', decide_eq_true (show j < 8 * 4 by omega),
    decide_eq_true (show j % 8 < 8 by omega), Nat.div_add_mod, Bool.true_and, Bool.true_and]

/-- A state in which the four bytes at an address are those of a word reads that word there. -/
theorem peek_word_of_bytes {s : State} {a v : Word}
    (h : ∀ i, i < 4 → peekByte s (a + BitVec.ofNat 32 i) = byteOf v i) : peek s .word a = v := by
  rw [peek_eq_fromBytes, ← fromBytes_byteOf v]
  exact fromBytes_congr h

end Sys2Proof.Machine

/-! PROOFS. LDM (R250, R252 to R254) from storage or register cells: the loads of a block by induction on its registers,
then the whole instruction. -/

namespace Sys2Proof.Machine

/-! ### The words of a block -/

/-- The address of the word at place `k` of a block (R252). -/
def wordAt (start : Word) (k : Nat) : Word := alignWord (start + BitVec.ofNat 32 (4 * k))

/-- The addresses of the first `n` words of a block. -/
def wordsFrom (start : Word) (n : Nat) : List Word := (List.range n).map (wordAt start)

theorem wordAt_zero (start : Word) : wordAt start 0 = alignWord start := by
  rw [wordAt, Nat.mul_zero, BitVec.add_zero]

theorem wordAt_succ (start : Word) (k : Nat) : wordAt start (k + 1) = wordAt (start + 4) k := by
  rw [wordAt, wordAt, BitVec.add_assoc, Nat.mul_succ, Nat.add_comm, BitVec.ofNat_add]
  rfl

theorem wordsFrom_succ (start : Word) (n : Nat) :
    wordsFrom start (n + 1) = alignWord start :: wordsFrom (start + 4) n := by
  rw [wordsFrom, List.range_succ_eq_map, List.map_cons, List.map_map, wordAt_zero]
  exact congrArg _ (List.map_congr_left fun k _ => wordAt_succ start k)

theorem wordAt_aligned (start : Word) (k : Nat) : (wordAt start k).toNat % 4 = 0 := by
  rw [wordAt, alignWord_toNat]
  omega

/-- The words of a block lie side by side. -/
theorem wordAt_eq_add (start : Word) (k : Nat) : wordAt start k = wordAt start 0 + BitVec.ofNat 32 (4 * k) := by
  have := start.isLt
  apply BitVec.eq_of_toNat_eq
  rw [wordAt_zero, wordAt, alignWord_toNat, BitVec.toNat_add, BitVec.toNat_add, alignWord_toNat, BitVec.toNat_ofNat]
  omega

/-- The state with other general registers. -/
def State.withGprs (s : State) (g : Vector Word 30) : State := { s with gpr := g }

/-- The accounting of accesses does not look at the registers. -/
theorem accessedWords_withGprs (s : State) (g : Vector Word 30) (l : List Word) :
    (s.withGprs g).accessedWords l = (s.accessedWords l).withGprs g := by
  induction l generalizing s with
  | nil => rfl
  | cons a l ih => exact ih (s.accessed .word a)

/-! ### Loads -/

/-- The registers after the loads of a block: each takes the value at its word, r15 is set aside (R250). -/
def loadedGprs (value : Word → Word) (bank : Mode) : List Reg → Word → Vector Word 30 → Vector Word 30
  | [], _, g => g
  | r :: rest, a, g =>
    loadedGprs value bank rest (a + 4) (if r = 15 then g else g.set (gprSlot r bank) (value (alignWord a)))

/-- The value for `pc` after the loads of a block (R250). -/
def loadedPc (value : Word → Word) : List Reg → Word → Option Word → Option Word
  | [], _, p => p
  | r :: rest, a, p => loadedPc value rest (a + 4) (if r = 15 then some (value (alignWord a)) else p)

/-- The loads of a block from storage or register cells: each word is accounted in turn, and its value is what stands
there (R250). -/
theorem loadBlock_eq (bank : Mode) (regs : List Reg) (a : Word) (s : State) (p : Option Word)
    (plain : ∀ k, k < regs.length → plainAccess s .word (wordAt a k) = true) :
    loadBlock bank regs a s p =
      ((s.accessedWords (wordsFrom a regs.length)).withGprs (loadedGprs (peek s .word) bank regs a s.gpr),
        loadedPc (peek s .word) regs a p) := by
  induction regs generalizing a s p with
  | nil => rfl
  | cons r rest ih =>
    have first := plain 0 (Nat.zero_lt_succ _)
    rw [wordAt_zero] at first
    have later (g : Vector Word 30) (p : Option Word) :
        loadBlock bank rest (a + 4) ((s.accessed .word (alignWord a)).withGprs g) p =
          (((s.accessed .word (alignWord a)).accessedWords (wordsFrom (a + 4) rest.length)).withGprs
            (loadedGprs (peek s .word) bank rest (a + 4) g), loadedPc (peek s .word) rest (a + 4) p) := by
      rw [ih _ _ _ fun k hk => wordAt_succ a k ▸ plain (k + 1) (Nat.succ_lt_succ hk), accessedWords_withGprs]
      rfl
    rw [loadBlock, memRead_of_plain first, List.length_cons, wordsFrom_succ, accessedWords_cons, loadedGprs, loadedPc]
    by_cases h : r = 15
    · simp only [h, if_true]
      exact later s.gpr _
    · simp only [h, if_false, State.setBankReg]
      exact later (s.gpr.set (gprSlot r bank) _) p

/-- Two registers have two places in one bank (R22). -/
theorem gprSlot_ne {r q : Reg} (hr : r ≠ 15) (hq : q ≠ 15) (h : r ≠ q) (bank : Mode) :
    gprSlot r bank ≠ gprSlot q bank := fun e => h ((gprSlot_eq_iff hr hq bank bank).mp e).1

/-- A place that no register of the block has is kept. -/
theorem loadedGprs_other (value : Word → Word) {bank : Mode} {regs : List Reg} {j : Fin 30}
    (h : ∀ r ∈ regs, r ≠ 15 → gprSlot r bank ≠ j) (a : Word) (g : Vector Word 30) :
    (loadedGprs value bank regs a g)[j] = g[j] := by
  induction regs generalizing a g with
  | nil => rfl
  | cons r rest ih =>
    rw [loadedGprs, ih fun q hq => h q (List.mem_cons_of_mem _ hq)]
    split
    next => rfl
    next hr => exact Vector.getElem_set_ne _ _ fun e => h r (List.mem_cons_self ..) hr (Fin.ext e)

/-- The register at each place of a block takes the value at its word. -/
theorem loadedGprs_loaded (value : Word → Word) (bank : Mode) {regs : List Reg} (distinct : regs.Nodup) {k : Nat}
    {r : Reg} (hk : regs[k]? = some r) (hr : r ≠ 15) (a : Word) (g : Vector Word 30) :
    (loadedGprs value bank regs a g)[gprSlot r bank] = value (wordAt a k) := by
  induction regs generalizing a g k with
  | nil => cases hk
  | cons q rest ih =>
    obtain ⟨fresh, distinct⟩ := List.nodup_cons.mp distinct
    cases k with
    | zero =>
      cases hk
      have later (p : Reg) (hp : p ∈ rest) (hp' : p ≠ 15) : gprSlot p bank ≠ gprSlot r bank :=
        gprSlot_ne hp' hr (fun e => fresh (e ▸ hp)) bank
      rw [loadedGprs, loadedGprs_other _ later, if_neg hr, wordAt_zero]
      exact Vector.getElem_set_self _
    | succ k => rw [loadedGprs, ih distinct hk, wordAt_succ]

/-- A block without r15 loads no `pc`. -/
theorem loadedPc_of_not_mem (value : Word → Word) {regs : List Reg} (h : (15 : Reg) ∉ regs) (a : Word)
    (p : Option Word) : loadedPc value regs a p = p := by
  induction regs generalizing a p with
  | nil => rfl
  | cons r rest ih =>
    rw [List.mem_cons, not_or] at h
    rw [loadedPc, ih h.2, if_neg (Ne.symm h.1)]

/-- A block that ends with r15 loads `pc` from its last word. -/
theorem loadedPc_of_last (value : Word → Word) (init : List Reg) (a : Word) (p : Option Word) :
    loadedPc value (init ++ [15]) a p = some (value (wordAt a init.length)) := by
  induction init generalizing a p with
  | nil => rw [List.nil_append, loadedPc, loadedPc, if_pos rfl, List.length_nil, wordAt_zero]
  | cons r rest ih => rw [List.cons_append, loadedPc, ih, List.length_cons, wordAt_succ]

/-! ### LDM -/

/-- The registers after the write-back of a block transfer: none to r15 (R250, R251). -/
def basedGprs (w : Bool) (rn : Reg) (final : Word) (s : State) : Vector Word 30 :=
  if w = true ∧ rn ≠ 15 then s.gpr.set (gprSlot rn s.mode) final else s.gpr

/-- The write-back of a block transfer changes the registers alone. -/
theorem blockWriteBack_eq (w : Bool) (rn : Reg) (final : Word) (s : State) :
    blockWriteBack w rn final s = s.withGprs (basedGprs w rn final s) := by
  unfold basedGprs
  by_cases h : rn = 15
  · simp only [blockWriteBack, h, bne_self_eq_false, Bool.and_false, Bool.false_eq_true, if_false, ne_eq,
      not_true_eq_false, and_false]
    rfl
  · cases w
    · simp only [blockWriteBack, Bool.false_and, Bool.false_eq_true, if_false, false_and]
      rfl
    · simp only [blockWriteBack, bne_iff_ne, ne_eq, h, not_false_eq_true, Bool.true_and, if_true, and_self,
        setReg_of_ne h]
      rfl

/-- The events of a block transfer are logged and nothing else. -/
theorem blockEvents_eq (user w : Bool) (rn : Reg) (s : State) :
    blockEvents user w rn s = { s with diag := (blockEvents user w rn s).diag } := by
  unfold blockEvents
  cases rn == 15 <;> cases user && w <;> rfl

@[simp] theorem blockEvents_params (user w : Bool) (rn : Reg) (s : State) :
    (blockEvents user w rn s).params = s.params := (State.logIf_params ..).trans (State.logIf_params ..)

@[simp] theorem blockEvents_gpr (user w : Bool) (rn : Reg) (s : State) :
    (blockEvents user w rn s).gpr = s.gpr := (State.logIf_gpr ..).trans (State.logIf_gpr ..)

@[simp] theorem blockEvents_cpsr (user w : Bool) (rn : Reg) (s : State) :
    (blockEvents user w rn s).cpsr = s.cpsr := (State.logIf_cpsr ..).trans (State.logIf_cpsr ..)

@[simp] theorem blockEvents_pc (user w : Bool) (rn : Reg) (s : State) :
    (blockEvents user w rn s).pc = s.pc := (State.logIf_pc ..).trans (State.logIf_pc ..)

/-- The events of a block transfer leave what every byte of memory reads as. -/
theorem blockEvents_peekByte (user w : Bool) (rn : Reg) (s : State) (b : Word) :
    peekByte (blockEvents user w rn s) b = peekByte s b := by
  rw [blockEvents_eq]
  rfl

/-- LDM from storage or register cells, before its last write of `pc` (R250): the events, the accounting of the words,
the base and the loaded registers, one internal cycle. -/
def ldmLoaded (user : Bool) (w : Bool) (rn : Reg) (plan : BlockPlan) (s : State) : State :=
  (((blockEvents user w rn s).accessedWords (wordsFrom plan.start plan.regs.length)).withGprs
    (loadedGprs (peek s .word) (if user then .usr else s.mode) plan.regs plan.start
      (basedGprs w rn plan.final s))).charge 1

/-- The loads of LDM after its events and its write-back. -/
theorem loadBlock_after_writeBack (user w : Bool) (rn : Reg) (plan : BlockPlan) (s : State)
    (plain : ∀ k, k < plan.regs.length → plainAccess s .word (wordAt plan.start k) = true) :
    let r := loadBlock (if user then .usr else s.mode) plan.regs plan.start
      (blockWriteBack w rn plan.final (blockEvents user w rn s)) none
    r.1.charge 1 = ldmLoaded user w rn plan s ∧ r.2 = loadedPc (peek s .word) plan.regs plan.start none := by
  intro r
  have loads : r = _ := loadBlock_eq _ _ _ _ _ (by
    rw [blockWriteBack_eq, blockEvents_eq]
    exact plain)
  rw [blockWriteBack_eq, accessedWords_withGprs] at loads
  rw [loads, ldmLoaded, blockEvents_eq]
  exact ⟨rfl, rfl⟩

/-- A list with r15 loads `pc` from its last word (R250). -/
theorem loadedPc_blockRegs (value : Word → Word) {list : BitVec 16} (h : (15 : Reg) ∈ blockRegs list) (a : Word)
    (p : Option Word) :
    loadedPc value (blockRegs list) a p = some (value (wordAt a ((blockRegs list).length - 1))) := by
  obtain ⟨init, split⟩ := blockRegs_eq_append h
  rw [split, loadedPc_of_last, List.length_append, List.length_singleton, Nat.add_sub_cancel]

theorem ldmLoaded_pc (user w : Bool) (rn : Reg) (plan : BlockPlan) (s : State) :
    (ldmLoaded user w rn plan s).pc = s.pc := by
  rw [ldmLoaded, accessedWords_eq, blockEvents_eq]
  rfl

/-- LDM from storage or register cells ends with the jump of a loaded r15, after the status restore of the S bit, or past
the instruction (R250). -/
theorem ldmEffect_eq (mode : BlockMode) (sbit w : Bool) (rn : Reg) (list : BitVec 16) (s : State) :
    let plan := blockPlan mode list (s.armReg rn)
    let n := plan.regs.length
    let t := ldmLoaded (sbit = true ∧ (15 : Reg) ∉ plan.regs) w rn plan s
    (∀ k, k < n → plainAccess s .word (wordAt plan.start k) = true) →
    ldmEffect mode sbit w rn list s =
      if (15 : Reg) ∈ plan.regs then
        (if sbit then restoreCpsr t else t).jumped (peek s .word (wordAt plan.start (n - 1)))
      else { t with pc := s.pc + 4 } := by
  intro plan n t plain
  have userBank : (sbit && !plan.regs.contains 15) = decide (sbit = true ∧ (15 : Reg) ∉ plan.regs) := by
    rw [Bool.eq_iff_iff]
    simp
  obtain ⟨loaded, value⟩ := loadBlock_after_writeBack (sbit = true ∧ (15 : Reg) ∉ plan.regs) w rn plan s plain
  unfold ldmEffect
  dsimp only
  rw [userBank, loaded, value]
  by_cases h : (15 : Reg) ∈ plan.regs
  · have regs : plan.regs = blockRegs list := blockPlan_regs ..
    rw [if_pos h, regs, loadedPc_blockRegs _ (regs ▸ h), ← regs]
    exact writePc_eq_jumped ..
  · rw [if_neg h, loadedPc_of_not_mem _ h]
    exact congrArg (fun p => State.withPc _ (p + 4)) (ldmLoaded_pc ..)

/-- Settles O49: the registers by `loadedGprs`, the rest of the next state by `ldmEffect_eq`. -/
theorem armLoadMultiple : Obligations.ArmLoadMultiple := by
  intro s c mode sbit w rn list hc plan n at' user bank plain
  have words : at' = wordAt plan.start := funext fun k => (alignWord_eq _).symm
  have distinct : plan.regs.Nodup := (blockPlan_regs ..).symm ▸ blockRegs_nodup list
  rw [words] at plain ⊢
  refine ⟨(ldmLoaded user w rn plan s).gpr, fun k r hk hr => ?_, fun hw hrn h => ?_, fun j h hb => ?_, ?_⟩
  · exact loadedGprs_loaded _ _ distinct hk hr ..
  · refine (loadedGprs_other _ h ..).trans ?_
    rw [basedGprs, if_pos ⟨hw, hrn⟩]
    exact Vector.getElem_set_self _
  · refine (loadedGprs_other _ h ..).trans ?_
    unfold basedGprs
    split
    next base => exact Vector.getElem_set_ne _ _ fun e => hb base.1 base.2 (Fin.ext e)
    next => rfl
  · exact gated_next hc (ldmEffect_eq mode sbit w rn list s plain)

end Sys2Proof.Machine

/-! PROOFS. STM (R251 to R254) to work RAM: the stores of a block by induction on its registers, then the whole
instruction. -/

namespace Sys2Proof.Machine

/-! ### Stores -/

/-- The state with other work RAM. -/
def State.withRam (s : State) (e i : Memory) : State := { s with ewram := e, iwram := i }

/-- The accounting of accesses does not look at what work RAM holds. -/
theorem accessedWords_withRam (s : State) (e i : Memory) (l : List Word) :
    (s.withRam e i).accessedWords l = (s.accessedWords l).withRam e i := by
  induction l generalizing s with
  | nil => rfl
  | cons a l ih => exact ih (s.accessed .word a)

/-- What the stores of a block leave: each word holds the value for its register, every byte outside and its mirrors is
kept, and beside work RAM only the accounting of each word in turn is done (R251). -/
structure Stored (s t : State) (start : Word) (regs : List Reg) (value : Nat → Reg → Word) : Prop where
  words : ∀ k r, regs[k]? = some r → peek t .word (wordAt start k) = value k r
  others : ∀ b, (∀ i, i < 4 * regs.length → place s.params b ≠ place s.params (wordAt start 0 + BitVec.ofNat 32 i)) →
    peekByte t b = peekByte s b
  rest : t = (s.accessedWords (wordsFrom start regs.length)).withRam t.ewram t.iwram

/-- The bytes of different words of a block have different places: a block is shorter than any work RAM. -/
theorem place_ne_of_lt {p : Config.Params} {start : Word} {i j : Nat} (hij : i < j) (hj : j < 64)
    (ram : isRam p (wordAt start 0 + BitVec.ofNat 32 i)) :
    place p (wordAt start 0 + BitVec.ofNat 32 i) ≠ place p (wordAt start 0 + BitVec.ofNat 32 j) := by
  intro e
  have mirror := place_ram_mod ram e.symm
  rw [BitVec.toNat_add, BitVec.toNat_add, BitVec.toNat_ofNat, BitVec.toNat_ofNat] at mirror
  omega

/-- The bytes of a block after its first word. -/
theorem wordAt_add_four (start : Word) (i : Nat) :
    wordAt (start + 4) 0 + BitVec.ofNat 32 i = wordAt start 0 + BitVec.ofNat 32 (4 + i) := by
  rw [← wordAt_succ, wordAt_eq_add, BitVec.add_assoc, ← BitVec.ofNat_add]

/-- One more store before the stores of a block, all of them to work RAM (R251). -/
theorem Stored.cons {s u t : State} {a : Word} {r : Reg} {rest : List Reg} {value : Nat → Reg → Word}
    (later : Stored u t (a + 4) rest fun j => value (j + 1)) (hm : s.MemoriesOk) (short : rest.length < 16)
    (ram : isRam s.params (wordAt a 0)) (written : memWrite .word (wordAt a 0) (value 0 r) s = u) :
    Stored s t a (r :: rest) value := by
  obtain ⟨words, others, accounting⟩ := later
  have params : u.params = s.params := written ▸ (memWrite_onBus ..).params
  have aligned : (wordAt a 0).toNat % Width.word.size = 0 := wordAt_aligned a 0
  simp only [params, wordAt_add_four] at others
  refine ⟨fun j q hq => ?_, fun b outside => ?_, ?_⟩
  · cases j with
    | zero =>
      cases hq
      refine peek_word_of_bytes fun i hi => ?_
      have lane : isRam s.params (wordAt a 0 + BitVec.ofNat 32 i) := by
        rw [isRam, device_add_lane aligned (by rcases ram with h | h <;> simp [h]) hi]
        exact ram
      rw [others _ fun n hn => place_ne_of_lt (by omega) (by omega) lane, ← written]
      exact peekByte_memWrite_same hm aligned ram _ hi rfl
    | succ j => rw [wordAt_succ, words j q hq]
  · rw [List.length_cons] at outside
    rw [others b fun i hi => outside (4 + i) (by omega), ← written]
    exact peekByte_memWrite_other hm aligned ram _ fun i hi => outside i (by have : i < 4 := hi; omega)
  · have once : u = (s.accessed .word (wordAt a 0)).withRam u.ewram u.iwram := written ▸ memWrite_ram_frame ram _
    rw [once, accessedWords_withRam] at accounting
    rw [accounting, List.length_cons, wordsFrom_succ, ← wordAt_zero]
    rfl

/-- The stores of a block of at most sixteen words to work RAM (R251). -/
theorem storeBlock_stored (value : Nat → Reg → Word) (regs : List Reg) (k : Nat) (a : Word) (s : State)
    (hm : s.MemoriesOk) (short : regs.length ≤ 16) (ram : ∀ j, j < regs.length → isRam s.params (wordAt a j)) :
    Stored s (storeBlock value k regs a s) a regs fun j => value (k + j) := by
  induction regs generalizing k a s with
  | nil => exact ⟨fun _ _ h => absurd h (by simp), fun _ _ => rfl, rfl⟩
  | cons r rest ih =>
    rw [List.length_cons] at short ram
    have bus := memWrite_onBus .word (wordAt a 0) (value k r) s
    have later := ih (k + 1) (a + 4) _ (bus.ran.memories hm) (by omega) fun j hj => by
      rw [bus.params, ← wordAt_succ]
      exact ram (j + 1) (by omega)
    simp only [Nat.add_right_comm k 1] at later
    rw [storeBlock, ← wordAt_zero]
    exact later.cons hm short (ram 0 (Nat.zero_lt_succ _)) rfl

/-! ### STM -/

/-- What STM stores, in the words of the statement (R251). -/
theorem stmValue_eq (s : State) (sbit w : Bool) (rn : Reg) (base final : Word) (k : Nat) (r : Reg) :
    stmValue s sbit w rn base final k r =
      if r = 15 then s.pc + 12
      else if r = rn then (if k ≠ 0 ∧ w = true then final else base)
      else s.gpr[gprSlot r (if sbit then .usr else s.mode)] := by
  unfold stmValue
  split
  next => rfl
  next h =>
    rw [bankReg_of_ne h]
    by_cases first : k = 0 <;> simp [first]

/-- The stores of a block leave the registers, the status word and `pc` alone. -/
theorem Stored.core {s t : State} {start : Word} {regs : List Reg} {value : Nat → Reg → Word}
    (h : Stored s t start regs value) : t.gpr = s.gpr ∧ t.cpsr = s.cpsr ∧ t.pc = s.pc := by
  rw [h.rest, accessedWords_eq]
  exact ⟨rfl, rfl, rfl⟩

/-- The end of STM: the base, then `pc` past the instruction (R251). -/
theorem advanceArm_blockWriteBack (w : Bool) (rn : Reg) (final : Word) {s t : State} (gpr : t.gpr = s.gpr)
    (cpsr : t.cpsr = s.cpsr) (pc : t.pc = s.pc) :
    advanceArm (blockWriteBack w rn final t) = (t.withGprs (basedGprs w rn final s)).withPc (s.pc + 4) := by
  have mode : t.mode = s.mode := congrArg (fun x : Word => (Mode.ofCode (x.extractLsb' 0 5)).getD .usr) cpsr
  rw [blockWriteBack_eq, ← pc]
  simp only [basedGprs, gpr, mode]
  rfl

/-- Settles O50: the stores by `storeBlock_stored`; the write-back and the advance touch no memory. -/
theorem armStoreMultiple : Obligations.ArmStoreMultiple := by
  intro s c mode sbit w rn list hm hc base plan n at' bank ram
  have words : at' = wordAt plan.start := funext fun k => (alignWord_eq _).symm
  have short : n ≤ 16 :=
    Nat.le_trans (Nat.le_of_eq (congrArg List.length (blockPlan_regs ..))) (blockRegs_length_le list)
  rw [words] at ram ⊢
  have params := blockEvents_params sbit w rn s
  have memories := ((ran_logIf ..).trans (ran_logIf ..) : Ran s (blockEvents sbit w rn s)).memories hm
  have stored := storeBlock_stored (stmValue s sbit w rn base plan.final) plan.regs 0 plan.start
    (blockEvents sbit w rn s) memories short (params.symm ▸ ram)
  obtain ⟨gpr, cpsr, pc⟩ := stored.core
  have effect : stmEffect mode sbit w rn list s = _ := advanceArm_blockWriteBack w rn plan.final
    (gpr.trans (blockEvents_gpr ..)) (cpsr.trans (blockEvents_cpsr ..)) (pc.trans (blockEvents_pc ..))
  generalize storeBlock (stmValue s sbit w rn base plan.final) 0 plan.regs plan.start (blockEvents sbit w rn s) = u
    at stored effect
  refine ⟨_, gated_next hc effect, fun k r hk => ?_, fun b _ outside _ => ?_, ?_⟩
  · refine (stored.words k r hk).trans ?_
    rw [stmValue_eq, Nat.zero_add]
  · exact (stored.others b (params.symm ▸ outside)).trans (blockEvents_peekByte ..)
  · refine (congrArg (fun x : State => (x.withGprs (basedGprs w rn plan.final s)).withPc (s.pc + 4)) stored.rest).trans ?_
    rfl

end Sys2Proof.Machine

/-! PROOFS. Taking an exception (R402), the software interrupt (R264, R372) and the illegal instructions (R267): the
entry is said once for every kind but Reset, in the words of the statements. -/

namespace Sys2Proof.Machine

/-! ### Taking an exception -/

/-- The entry of every exception but Reset, with its row of parameters (R402, R403). -/
theorem enterException_eq_entered {kind : ExceptionKind} (hk : kind ≠ .reset) (s : State) :
    enterException kind s =
      s.entered (gprSlot 14 (targetMode kind)) (targetSpsr kind) (s.pc + BitVec.ofNat 32 (returnOffset s.thumb kind))
        (setsF kind) ((targetMode kind).code.setWidth 32) (vector kind) := by
  unfold State.entered
  rw [← handlerStatus_eq, ← writePc_eq_jumped]
  cases kind with
  | reset => exact absurd rfl hk
  | _ => rfl

/-- SWI returns to the next instruction of the state it was taken in (R403). -/
theorem enterException_swi {s : State} {thumb : Bool} (h : s.cpsr.getLsbD 5 = thumb) :
    enterException .swi s =
      s.entered (gprSlot 14 .svc) 2 (s.pc + BitVec.ofNat 32 (if thumb then 2 else 4)) false 0x13 0x00000008 := by
  subst h
  exact enterException_eq_entered (by decide) s

/-- Undefined returns to the next instruction of the state it was taken in (R403). -/
theorem enterException_undefined (s : State) :
    enterException .undefined s =
      s.entered (gprSlot 14 .und) 4 (s.pc + if s.cpsr.getLsbD 5 then 2 else 4) false 0x1B 0x00000004 := by
  have size : BitVec.ofNat 32 (returnOffset s.thumb .undefined) = if s.cpsr.getLsbD 5 then 2 else 4 :=
    apply_ite (BitVec.ofNat 32) ..
  rw [← size]
  exact enterException_eq_entered (by decide) s

/-- Settles O28: both encodings enter the one exception; the state T names fixes the return address. -/
theorem softwareInterrupt : Obligations.SoftwareInterrupt :=
  ⟨fun _ _ _ hc arm => gated_next hc (enterException_swi arm), fun _ _ thumb => congrArg _ (enterException_swi thumb)⟩

/-! ### Illegal instructions -/

/-- Under the fatal policy the record is set and nothing else (R267). -/
theorem illegal_of_fatal {s : State} (h : s.params.undPolicy = .fatal) (tag : Tag) :
    illegal tag s = { s with fatal := some { addr := s.pc, opcode := s.ir, tag := tag } } := by
  unfold illegal
  rw [h]
  rfl

/-- Under the vector policy the Undefined exception is taken (R267). -/
theorem illegal_of_vector {s : State} (h : s.params.undPolicy = .vector) (tag : Tag) :
    illegal tag s = enterException .undefined s := by
  unfold illegal
  rw [h]

/-- A step that ends with a fatal record returns 0 and skips the accounting (R160). -/
theorem finishStep_of_fatal {s : State} (h : s.fatal.isSome = true) : finishStep s = { s with tally := 0 } := if_pos h

/-- Settles O30: each instruction is `illegal` with its own tag, whose two policies are the stated outcome. -/
theorem illegalInstructions : Obligations.IllegalInstructions := by
  unfold Obligations.IllegalInstructions
  intro outcome
  have illegal_eq (tag : Tag) (s : State) : illegal tag s = outcome s tag := by
    dsimp only [outcome]
    split
    · exact illegal_of_fatal ‹_› tag
    · exact (illegal_of_vector ‹_› tag).trans (enterException_undefined s)
  refine ⟨fun s c hc => ?_, fun s => ?_⟩
  · have arm (tag : Tag) : gated c (illegal tag) s = .next (outcome s tag) := gated_next hc (illegal_eq tag s)
    exact ⟨fun _ _ => arm .aUND, fun _ _ => arm .aUND, fun _ _ _ _ => arm .aUND, fun _ _ => arm .aBKPT,
      fun _ _ _ _ _ _ => arm .aCDO, fun _ _ _ _ _ => arm .aCDT, fun _ _ _ _ _ => arm .aCDT,
      fun _ _ _ _ _ _ => arm .aCRT, fun _ _ _ _ _ _ => arm .aCRT⟩
  · have thumb (tag : Tag) : (.next (illegal tag s) : Host.Outcome State Fault Refusal) = .next (outcome s tag) :=
      congrArg _ (illegal_eq tag s)
    exact ⟨fun _ => thumb .tUND, fun _ => thumb .tUND, fun _ => thumb .tBKPT, fun _ => thumb .tUBLX,
      fun _ => thumb .tUBLX, finishStep_of_fatal⟩

end Sys2Proof.Machine

/-! PROOFS. The branches of both encodings (R260 to R262, R323, R370, R373, R376, R377): the offsets in numbers, the
link and the exchange, then the instructions. -/

namespace Sys2Proof.Machine

/-! ### Offsets in numbers -/

/-- A sign-extended offset scaled by a power of two (R260, R370, R373, R376). -/
theorem signExtend_shiftLeft_eq_ofInt {w : Nat} (off : BitVec w) (k : Nat) :
    (off.signExtend 32 <<< k : Word) = BitVec.ofInt 32 ((2 ^ k : Nat) * off.toInt) := by
  have scale : BitVec.twoPow 32 k = BitVec.ofInt 32 (2 ^ k : Nat) := by
    apply BitVec.eq_of_toNat_eq
    rw [BitVec.toNat_twoPow, BitVec.ofInt_natCast, BitVec.toNat_ofNat]
  rw [BitVec.shiftLeft_eq_mul_twoPow, BitVec.mul_comm, scale, BitVec.ofInt_mul]
  rfl

/-- A zero-extended offset scaled by a power of two (R377). -/
theorem setWidth_shiftLeft_eq_ofNat {w : Nat} (off : BitVec w) (k : Nat) :
    (off.setWidth 32 <<< k : Word) = BitVec.ofNat 32 (2 ^ k * off.toNat) := by
  apply BitVec.eq_of_toNat_eq
  simp only [BitVec.toNat_shiftLeft, BitVec.toNat_setWidth, BitVec.toNat_ofNat, Nat.shiftLeft_eq, Nat.mod_mul_mod]
  rw [Nat.mul_comm]

/-- The target of the ARM branches (R260). -/
theorem branchTarget_eq (s : State) (off24 : BitVec 24) :
    branchTarget s off24 = s.pc + 8 + BitVec.ofInt 32 (4 * off24.toInt) :=
  congrArg _ (signExtend_shiftLeft_eq_ofInt off24 2)

/-! ### Link and exchange -/

/-- A write of the link register is a write of r14 in the bank of the current mode (R22). -/
theorem setReg_link (v : Word) (s : State) :
    s.setReg linkReg v = { s with gpr := s.gpr.set (gprSlot 14 s.mode) v } := setReg_of_ne (by decide) v s

/-- A jump with link writes r14 before `pc` (R261, R377). -/
theorem branchLink_eq_jumped (target r : Word) (s : State) :
    writePc target (s.setReg linkReg r) = State.jumped { s with gpr := s.gpr.set (gprSlot 14 s.mode) r } target := by
  rw [writePc_eq_jumped, setReg_link]

/-- A status word with T replaced, as a mask and a bit (R28). -/
theorem putThumb_eq (w : Word) (t : Bool) :
    putThumb w t = w &&& 0xFFFFFFDF#32 ||| (if t then 0x20#32 else 0#32) := by
  apply BitVec.eq_of_getLsbD_eq
  intro i hi
  have others : ∀ i, i < 32 → (0xFFFFFFDF#32).getLsbD i = decide (i ≠ 5) := by decide
  have bit : ∀ i, i < 32 → (0x20#32).getLsbD i = decide (i = 5) := by decide
  rw [putThumb_getLsbD w t hi, BitVec.getLsbD_or, BitVec.getLsbD_and, others i hi,
    apply_ite (fun w : Word => w.getLsbD i), bit i hi, BitVec.getLsbD_zero]
  by_cases h : i = 5
  · cases t <;> simp [h]
  · cases t <;> simp [h]

/-- BX takes T from bit 0 of the target and jumps by the new T (R262, R323). -/
theorem branchExchange_eq_jumped (t : Word) (s : State) :
    branchExchange t s =
      State.jumped { s with cpsr := s.cpsr &&& 0xFFFFFFDF#32 ||| (if t.getLsbD 0 then 0x20#32 else 0#32) } t := by
  unfold branchExchange
  rw [writePc_eq_jumped, putThumb_eq]
  rfl

/-! ### The ARM branches -/

section Arm

variable {s : State} {c : Cond} (h : condPassed s c = true)
include h

/-- B (R260). -/
theorem execArmB_eq (off24 : BitVec 24) :
    execArmB c off24 s = .next (s.jumped (s.pc + 8 + BitVec.ofInt 32 (4 * off24.toInt))) :=
  gated_next h (by rw [writePc_eq_jumped, branchTarget_eq])

/-- BL (R261). -/
theorem execArmBl_eq (off24 : BitVec 24) :
    execArmBl c off24 s =
      .next (State.jumped { s with gpr := s.gpr.set (gprSlot 14 s.mode) (s.pc + 4) }
        (s.pc + 8 + BitVec.ofInt 32 (4 * off24.toInt))) :=
  gated_next h (by rw [branchLink_eq_jumped, branchTarget_eq])

/-- BX (R262). -/
theorem execArmBx_eq (rn : Reg) :
    let t := s.armReg rn
    execArmBx c rn s =
      .next (State.jumped { s with cpsr := s.cpsr &&& 0xFFFFFFDF#32 ||| (if t.getLsbD 0 then 0x20#32 else 0#32) } t) :=
  gated_next h (branchExchange_eq_jumped ..)

end Arm

/-! ### The THUMB branches -/

/-- BX in THUMB, whose event leaves the status word alone (R323). -/
theorem execThumbBx_eq (rs : Reg) (s : State) :
    let t := s.thumbReg rs
    let u := s.noted (rs = 15 ∧ s.pc.getLsbD 1 = true) (.unpredictable .bxPcMisaligned)
    execThumbBx rs s =
      .next (State.jumped
        { u with cpsr := s.cpsr &&& 0xFFFFFFDF#32 ||| (if t.getLsbD 0 then 0x20#32 else 0#32) } t) := by
  have misaligned : (rs == 15 && s.pc.getLsbD 1) = decide (rs = 15 ∧ s.pc.getLsbD 1 = true) := by
    rw [Bool.eq_iff_iff, Bool.and_eq_true, beq_iff_eq, decide_eq_true_eq]
  unfold execThumbBx
  rw [branchExchange_eq_jumped, State.logIf_cpsr, misaligned]
  rfl

/-- B with a condition: the jump, or `pc` past the halfword (R370). -/
theorem execThumbBCond_eq (c : Cond) (soff8 : BitVec 8) (s : State) :
    execThumbBCond c soff8 s =
      .next (if condPassed s c then s.jumped (s.pc + 4 + BitVec.ofInt 32 (2 * soff8.toInt))
        else { s with pc := s.pc + 2 }) := by
  unfold execThumbBCond
  rw [writePc_eq_jumped, signExtend_shiftLeft_eq_ofInt]
  rfl

/-- B (R373). -/
theorem execThumbB_eq (off11 : BitVec 11) (s : State) :
    execThumbB off11 s = .next (s.jumped (s.pc + 4 + BitVec.ofInt 32 (2 * off11.toInt))) := by
  unfold execThumbB
  rw [writePc_eq_jumped, signExtend_shiftLeft_eq_ofInt]
  rfl

/-- The first half of BL leaves the high part of the target in r14 (R376). -/
theorem execThumbBlFirst_eq (off11 : BitVec 11) (s : State) :
    execThumbBlFirst off11 s =
      .next { s with pc := s.pc + 2
                     gpr := s.gpr.set (gprSlot 14 s.mode) (s.pc + 4 + BitVec.ofInt 32 (4096 * off11.toInt)) } := by
  unfold execThumbBlFirst
  rw [setReg_link, signExtend_shiftLeft_eq_ofInt]
  rfl

/-- The second half of BL jumps to r14 plus the low part and links the next halfword (R377). -/
theorem execThumbBlSecond_eq (off11 : BitVec 11) (s : State) :
    execThumbBlSecond off11 s =
      .next (State.jumped { s with gpr := s.gpr.set (gprSlot 14 s.mode) ((s.pc + 2) ||| 1#32) }
        (s.gpr[gprSlot 14 s.mode] + BitVec.ofNat 32 (2 * off11.toNat))) := by
  have link : s.thumbReg linkReg = s.gpr[gprSlot 14 s.mode] := (reg_eq s thumbAhead linkReg).trans (if_neg (by decide))
  unfold execThumbBlSecond
  rw [branchLink_eq_jumped, link, setWidth_shiftLeft_eq_ofNat]
  rfl

/-- Settles O53: the ARM forms under a passed condition and the THUMB forms, each said above. -/
theorem branches : Obligations.Branches :=
  ⟨fun _ _ hc => ⟨fun off24 => ⟨execArmB_eq hc off24, execArmBl_eq hc off24⟩, execArmBx_eq hc⟩, fun s =>
    ⟨fun rs => execThumbBx_eq rs s, fun c soff8 => execThumbBCond_eq c soff8 s, fun off11 =>
      ⟨execThumbB_eq off11 s, execThumbBlFirst_eq off11 s, execThumbBlSecond_eq off11 s⟩⟩⟩

end Sys2Proof.Machine

/-! PROOFS. THUMB arithmetic, logic and register moves (formats 1 to 5, 12 and 13, R280 to R307, R320 to R328): the low
registers, the two shared ends of the ALU instructions and the write of a destination, then the instructions. -/

namespace Sys2Proof.Machine

/-! ### Registers -/

/-- A low register is never r15 (R146). -/
theorem toReg_ne_pc (r : LoReg) : r.toReg ≠ 15 :=
  Fin.ne_of_val_ne (Nat.ne_of_lt (Nat.lt_of_lt_of_le r.isLt (by decide)))

/-- A low register is read in its place among the physical registers (R22, R146). -/
theorem loReg_eq (s : State) (r : LoReg) : s.loReg r = s.gpr[gprSlot r.toReg s.mode] :=
  (reg_eq s thumbAhead r.toReg).trans (if_neg (toReg_ne_pc r))

/-- r13 is read in the bank of the current mode (R22). -/
theorem thumbReg_stack (s : State) : s.thumbReg stackReg = s.gpr[gprSlot 13 s.mode] :=
  (reg_eq s thumbAhead stackReg).trans (if_neg (by decide))

/-- The end of a THUMB instruction that writes a register other than r15 (R22, R27). -/
theorem advanceThumb_setReg {rd : Reg} (h : rd ≠ 15) (v : Word) (s : State) :
    advanceThumb (s.setReg rd v) = s.ended 2 rd v := by
  rw [setReg_of_ne h, State.ended, if_neg h]
  rfl

/-- The end of a THUMB instruction that writes a register, r15 included (R27, R175). -/
theorem writeThumb_eq_ended (rd : Reg) (v : Word) (s : State) : writeThumb rd v s = s.ended 2 rd v := by
  unfold writeThumb
  split
  next h => rw [writePc_eq_jumped, State.ended, if_pos h]
  next h => exact advanceThumb_setReg h v s

/-! ### The shared ends of the ALU instructions -/

/-- A logical result (R280), after `k` internal cycles. -/
theorem thumbLogical_eq (rd : Option LoReg) (r : Word) (sc : Bool) (k : Nat) (s : State) :
    thumbLogical rd r sc (s.charge k) = s.afterAlu (rd.map LoReg.toReg) r (bitStatus s.cpsr r sc) 2 k := by
  unfold thumbLogical
  rw [bitStatus_eq]
  cases rd with
  | none => rfl
  | some rd =>
    dsimp only [State.setLoReg]
    rw [setReg_of_ne (toReg_ne_pc rd)]
    rfl

/-- An arithmetic result (R280): the adder's value and its flags. -/
theorem thumbArithmetic_eq (rd : Option LoReg) (r : Sum) (s : State) :
    thumbArithmetic rd r s = s.afterAlu (rd.map LoReg.toReg) r.value (arithmeticFlags s.cpsr r) 2 0 := by
  unfold thumbArithmetic
  cases rd with
  | none => rfl
  | some rd =>
    dsimp only [State.setLoReg]
    rw [setReg_of_ne (toReg_ne_pc rd)]
    rfl

/-- The sum of two operands and a carry in (R170, R280). -/
theorem thumbArithmetic_add (rd : Option LoReg) (a b : Word) (cin : Bool) (s : State) :
    thumbArithmetic rd (addWithCarry a b cin) s =
      s.afterAlu (rd.map LoReg.toReg) (a + b + BitVec.ofNat 32 cin.toNat) (addStatus s.cpsr a b cin) 2 0 := by
  rw [thumbArithmetic_eq, addWithCarry_value, addStatus_eq]

/-- The difference of two operands, whose borrow is the inverted carry in (R171, R280). -/
theorem thumbArithmetic_sub (rd : Option LoReg) (a b : Word) (cin : Bool) (s : State) :
    thumbArithmetic rd (subWithCarry a b cin) s =
      s.afterAlu (rd.map LoReg.toReg) (a - b - BitVec.ofNat 32 (!cin).toNat) (subStatus s.cpsr a b !cin) 2 0 := by
  rw [thumbArithmetic_eq, subWithCarry_value, subStatus_eq]

/-! ### Operands in numbers -/

/-- The amount of a shift by a register (R294). -/
theorem byteOf_zero_toNat (v : Word) : (byteOf v 0).toNat = v.toNat % 256 := BitVec.extractLsb'_toNat 0 8 v

/-- The address of format 12: the aligned program counter and a number of words (R26, R325). -/
theorem alignedPc_add_wordsImm8 (s : State) (imm8 : BitVec 8) :
    alignedPc s + wordsImm8 imm8 = BitVec.ofNat 32 ((s.pc + 4).toNat / 4 * 4 + 4 * imm8.toNat) := by
  rw [alignedPc, wordsImm8, alignWord_eq, setWidth_shiftLeft_eq_ofNat, BitVec.ofNat_add]
  rfl

/-- The event of format 5 under the condition as the statements name it (R320 to R322). -/
theorem format5Event_eq_noted (rs rd : Reg) (s : State) :
    format5Event rs rd s = s.noted (rs.val < 8 ∧ rd.val < 8) (.unpredictable .format5LowLow) := by
  rw [format5Event, logIf_eq_noted, Bool.decide_and]

end Sys2Proof.Machine

/-! ### The instructions

Outside `Machine`, where `thumbLogical` and `thumbArithmetic` name the model's own operations. -/

namespace Sys2Proof

open Machine

/-- Settles O54: every instruction ends in `thumbLogical`, with the shifter's result or the bitwise one. -/
theorem thumbLogical : Obligations.ThumbLogical := by
  intro s rs rd
  rw [← loReg_eq s rd, ← loReg_eq s rs]
  intro a b carry put shifted
  have result (r : Word) (sc : Bool) (cycles : Nat) :
      .next (Machine.thumbLogical (some rd) r sc (s.charge cycles)) = put r sc cycles :=
    congrArg _ (thumbLogical_eq ..)
  simp only [← byteOf_zero_toNat, ← mul_eq_ofNat, BitVec.ofNat_toNat]
  exact ⟨fun _ => ⟨result _ _ 0, result _ _ 0, result _ _ 0⟩, fun _ => result _ _ 0, result _ _ 1, result _ _ 1,
    result _ _ 1, result _ _ 1, result _ _ 0, result _ _ 0, result _ _ 0, result _ _ 0, result _ _ 0, result _ _ _,
    congrArg Host.Outcome.next (thumbLogical_eq none _ _ 0 s)⟩

/-- Settles O55: every instruction ends in `thumbArithmetic`, with a sum or a difference. -/
theorem thumbArithmetic : Obligations.ThumbArithmetic := by
  intro s rn rs rd x carry sum diff
  have regs : s.loReg = x := funext (loReg_eq s)
  have add (dest : Option LoReg) (a b : Word) (cin : Bool) :
      .next (Machine.thumbArithmetic dest (addWithCarry a b cin) s) = sum (dest.map LoReg.toReg) a b cin :=
    congrArg _ (thumbArithmetic_add ..)
  have sub (dest : Option LoReg) (a b : Word) (cin : Bool) :
      .next (Machine.thumbArithmetic dest (subWithCarry a b cin) s) = diff (dest.map LoReg.toReg) a b !cin :=
    congrArg _ (thumbArithmetic_sub ..)
  simp only [← regs, BitVec.ofNat_toNat]
  exact ⟨add (some rd) _ _ _, sub (some rd) _ _ true, fun _ => ⟨add (some rd) _ _ _, sub (some rd) _ _ true⟩,
    fun _ => ⟨sub none _ _ true, add (some rd) _ _ _, sub (some rd) _ _ true⟩, add (some rd) _ _ _,
    sub (some rd) _ _ _, sub (some rd) _ _ true, sub none _ _ true, add none _ _ _⟩

/-- Settles O56: the high-register operations end in a write or a comparison after the event; the additions of formats
12 and 13 in a write of a register other than r15. -/
theorem thumbHighRegisters : Obligations.ThumbHighRegisters := by
  refine ⟨fun s rs rd => ?_, fun s rd imm8 imm7 => ?_⟩
  · intro x t
    have regs : s.thumbReg = x := funext (reg_eq s thumbAhead)
    have event : format5Event rs rd s = t := format5Event_eq_noted ..
    have status : t.cpsr = s.cpsr := State.logIf_cpsr ..
    rw [← regs, ← status, ← event]
    exact ⟨congrArg Host.Outcome.next (writeThumb_eq_ended ..), congrArg Host.Outcome.next (writeThumb_eq_ended ..),
      congrArg Host.Outcome.next (thumbArithmetic_sub none _ _ true _)⟩
  · intro sp
    have stack : s.thumbReg stackReg = sp := thumbReg_stack s
    have toLow (v : Word) : advanceThumb (s.setLoReg rd v) = s.ended 2 rd.toReg v :=
      advanceThumb_setReg (toReg_ne_pc rd) ..
    have toStack (v : Word) : advanceThumb (s.setReg stackReg v) = s.ended 2 13 v :=
      advanceThumb_setReg (by decide) ..
    have words {w : Nat} (n : BitVec w) : (n.setWidth 32 <<< 2 : Word) = BitVec.ofNat 32 (4 * n.toNat) :=
      setWidth_shiftLeft_eq_ofNat n 2
    rw [← alignedPc_add_wordsImm8, ← words, ← words, ← stack]
    exact ⟨congrArg Host.Outcome.next (toLow _), congrArg Host.Outcome.next (toLow _),
      congrArg Host.Outcome.next (toStack _), congrArg Host.Outcome.next (toStack _)⟩

end Sys2Proof

/-! PROOFS. THUMB loads and stores (formats 6 to 11, R330 to R346): the two shared effects, the addresses in numbers,
then the instructions. -/

namespace Sys2Proof.Machine

/-! ### The effects -/

/-- A THUMB load by any access: the state after the access, one internal cycle, the low register (R182). -/
theorem thumbLoad_eq_ended (load : Word → State → Word × State) (a : Word) (rd : LoReg) (s : State) :
    thumbLoad load a rd s =
      State.ended { (load a s).2 with tally := (load a s).2.tally + 1 } 2 rd.toReg (load a s).1 :=
  advanceThumb_setReg (toReg_ne_pc rd) ..

/-- A THUMB store by any access that leaves `pc` alone: the low register is stored and `pc` moves on. -/
theorem thumbStore_eq_advanced {store : Word → Word → State → State} (bus : ∀ a v t, OnBus t (store a v t)) (a : Word)
    (rd : LoReg) (s : State) :
    thumbStore store a rd s = { store a s.gpr[gprSlot rd.toReg s.mode] s with pc := s.pc + 2 } := by
  unfold thumbStore
  rw [loReg_eq]
  exact congrArg (fun p => State.withPc _ (p + 2)) (bus ..).before.pc

/-! ### The addresses -/

/-- The address of formats 7 and 8. -/
theorem regOffsetAddr_eq (s : State) (ro rb : LoReg) :
    regOffsetAddr s ro rb = s.gpr[gprSlot rb.toReg s.mode] + s.gpr[gprSlot ro.toReg s.mode] := by
  rw [regOffsetAddr, loReg_eq, loReg_eq]

/-- The address of formats 9 and 10: an offset in units of a power of two (R145). -/
theorem immOffsetAddr_eq (s : State) (imm5 : BitVec 5) (scale : Nat) (rb : LoReg) :
    immOffsetAddr s imm5 scale rb = s.gpr[gprSlot rb.toReg s.mode] + BitVec.ofNat 32 (2 ^ scale * imm5.toNat) := by
  rw [immOffsetAddr, loReg_eq, setWidth_shiftLeft_eq_ofNat]

/-- The address of format 11: r13 and a number of words (R345, R346). -/
theorem spOffsetAddr_eq (s : State) (imm8 : BitVec 8) :
    spOffsetAddr s imm8 = s.gpr[gprSlot 13 s.mode] + BitVec.ofNat 32 (4 * imm8.toNat) := by
  rw [spOffsetAddr, thumbReg_stack]
  exact congrArg _ (setWidth_shiftLeft_eq_ofNat imm8 2)

/-! ### The instructions -/

/-- Settles O57: the two shared effects at the address of each form. -/
theorem thumbLoadsStores : Obligations.ThumbLoadsStores := by
  intro s ro rb rd imm5 imm8 x byReg byImm bySp byPc load store
  have loads (access : Word → State → Word × State) {a b : Word} (addr : a = b) :
      .next (thumbLoad access a rd s) = load (access b s) :=
    addr ▸ congrArg Host.Outcome.next (thumbLoad_eq_ended access a rd s)
  have stores {access : Word → Word → State → State} (bus : ∀ a v t, OnBus t (access a v t)) {a b : Word}
      (addr : a = b) : .next (thumbStore access a rd s) = store (access b (x rd) s) :=
    addr ▸ congrArg Host.Outcome.next (thumbStore_eq_advanced bus a rd s)
  have reg : regOffsetAddr s ro rb = byReg := regOffsetAddr_eq ..
  have imm (scale : Nat) : immOffsetAddr s imm5 scale rb = byImm (2 ^ scale) := immOffsetAddr_eq ..
  have sp : spOffsetAddr s imm8 = bySp := spOffsetAddr_eq ..
  have pc : pcOffsetAddr s imm8 = byPc := alignedPc_add_wordsImm8 ..
  exact ⟨loads _ pc, loads _ reg, loads _ reg, loads _ reg, loads _ reg, loads _ reg, loads _ (imm 2), loads _ (imm 0),
    loads _ (imm 1), loads _ sp, stores storeWord_onBus reg, stores storeByte_onBus reg, stores storeHalf_onBus reg,
    stores storeWord_onBus (imm 2), stores storeByte_onBus (imm 0), stores storeHalf_onBus (imm 1),
    stores storeWord_onBus sp⟩

end Sys2Proof.Machine

/-! PROOFS. THUMB block transfers (formats 14 and 15, R350 to R354): the registers of a list, the shared load and the
shared store, then the instructions. -/

namespace Sys2Proof.Machine

/-! ### The registers of a list -/

/-- A register other than r15 is read in the bank of the current mode (R22). -/
theorem thumbReg_of_ne {n : Reg} (h : n ≠ 15) (s : State) : s.thumbReg n = s.gpr[gprSlot n s.mode] :=
  (reg_eq s thumbAhead n).trans (if_neg h)

/-- The low registers of a list, ascending (R350 to R353). -/
def lowRegs (rlist : BitVec 8) : List Reg := ((List.finRange 8).filter fun r => rlist.getLsbD r.val).map LoReg.toReg

theorem thumbRegs_eq (rlist : BitVec 8) (withExtra : Bool) (extra : Reg) :
    thumbRegs rlist withExtra extra = lowRegs rlist ++ if withExtra then [extra] else [] := rfl

theorem lowRegs_eq_nil_iff (rlist : BitVec 8) : lowRegs rlist = [] ↔ rlist = 0 := by
  rw [lowRegs, List.map_eq_nil_iff, List.filter_eq_nil_iff]
  constructor
  · intro none
    refine BitVec.eq_of_getLsbD_eq fun i hi => ?_
    exact (Bool.eq_false_iff.mpr (none ⟨i, hi⟩ (List.mem_finRange _))).trans BitVec.getLsbD_zero.symm
  · rintro rfl r _
    exact Bool.eq_false_iff.mp BitVec.getLsbD_zero

theorem thumbRegs_eq_nil_iff (rlist : BitVec 8) (withExtra : Bool) (extra : Reg) :
    thumbRegs rlist withExtra extra = [] ↔ rlist = 0 ∧ withExtra = false := by
  rw [thumbRegs_eq, List.append_eq_nil_iff, lowRegs_eq_nil_iff]
  cases withExtra <;> simp

theorem lt_of_mem_lowRegs {rlist : BitVec 8} {r : Reg} (h : r ∈ lowRegs rlist) : r.val < 8 := by
  obtain ⟨q, _, rfl⟩ := List.mem_map.mp h
  exact q.isLt

theorem pc_not_mem_lowRegs (rlist : BitVec 8) : (15 : Reg) ∉ lowRegs rlist :=
  fun h => absurd (lt_of_mem_lowRegs h) (by decide)

/-- The registers PUSH stores do not hold r15 (R350). -/
theorem pc_not_mem_pushRegs (rlist : BitVec 8) (r : Bool) : (15 : Reg) ∉ thumbRegs rlist r linkReg := by
  rw [thumbRegs_eq, List.mem_append, not_or]
  exact ⟨pc_not_mem_lowRegs rlist, by cases r <;> decide⟩

theorem lowRegs_nodup (rlist : BitVec 8) : (lowRegs rlist).Nodup :=
  List.Pairwise.map LoReg.toReg (fun _ _ ne e => ne (Fin.ext (Fin.val_eq_of_eq e :)))
    (List.Pairwise.filter _ (List.nodup_finRange 8))

theorem lowRegs_length_le (rlist : BitVec 8) : (lowRegs rlist).length ≤ 8 := by
  rw [lowRegs, List.length_map]
  exact Nat.le_trans (List.length_filter_le ..) (Nat.le_of_eq List.length_finRange)

/-- The registers of a list with one above the low ones are distinct (R350, R351). -/
theorem thumbRegs_nodup (rlist : BitVec 8) (withExtra : Bool) {extra : Reg} (h : 8 ≤ extra.val) :
    (thumbRegs rlist withExtra extra).Nodup := by
  rw [thumbRegs_eq]
  cases withExtra with
  | false => exact (List.append_nil _).symm ▸ lowRegs_nodup rlist
  | true =>
    refine List.nodup_append.mpr ⟨lowRegs_nodup rlist, List.pairwise_singleton .., fun a ha b hb e => ?_⟩
    rw [e, List.mem_singleton.mp hb] at ha
    exact absurd (lt_of_mem_lowRegs ha) (Nat.not_lt.mpr h)

theorem thumbRegs_length_le (rlist : BitVec 8) (withExtra : Bool) (extra : Reg) :
    (thumbRegs rlist withExtra extra).length ≤ 9 := by
  have low := lowRegs_length_le rlist
  rw [thumbRegs_eq, List.length_append]
  cases withExtra
  · exact Nat.le_succ_of_le low
  · exact Nat.succ_le_succ low

/-- The registers a THUMB block transfer moves: r15 alone for an empty list (R354). -/
def movedRegs (regs : List Reg) : List Reg := if regs = [] then [pcReg] else regs

theorem movedRegs_of_ne {regs : List Reg} (h : regs ≠ []) : movedRegs regs = regs := if_neg h

theorem movedRegs_length (regs : List Reg) : (movedRegs regs).length = max 1 regs.length := by
  cases regs
  case nil => rfl
  case cons r rest => exact (Nat.max_eq_right (Nat.succ_le_succ (Nat.zero_le _))).symm

theorem movedRegs_nodup {regs : List Reg} (h : regs.Nodup) : (movedRegs regs).Nodup := by
  unfold movedRegs
  split
  · exact List.pairwise_singleton ..
  · exact h

/-- r15 is the last register of a POP or LDMIA that moves it (R351, R354). -/
theorem movedRegs_eq_append {rlist : BitVec 8} {withExtra : Bool}
    (h : (15 : Reg) ∈ movedRegs (thumbRegs rlist withExtra pcReg)) :
    ∃ init, movedRegs (thumbRegs rlist withExtra pcReg) = init ++ [15] := by
  by_cases empty : thumbRegs rlist withExtra pcReg = []
  · exact ⟨[], if_pos empty⟩
  · rw [movedRegs_of_ne empty, thumbRegs_eq] at h ⊢
    cases withExtra with
    | false => exact absurd ((List.append_nil (lowRegs rlist)) ▸ h) (pc_not_mem_lowRegs rlist)
    | true => exact ⟨_, rfl⟩

/-- What a block transfer moves the base by, in numbers (R350 to R354). -/
theorem thumbSpan_eq (regs : List Reg) :
    thumbSpan regs = BitVec.ofNat 32 (if regs = [] then 0x40 else 4 * regs.length) := by
  unfold thumbSpan
  split <;> rfl

/-! ### The load -/

/-- A load of a list from storage or register cells, before its last write of `pc` (R351, R353): the accounting of the
words, the base and then the loaded registers, one internal cycle. -/
def thumbLoaded (regs : List Reg) (start : Word) (base : Reg) (final : Word) (s : State) : State :=
  ((s.accessedWords (wordsFrom start regs.length)).withGprs
    (loadedGprs (peek s .word) s.mode regs start (s.gpr.set (gprSlot base s.mode) final))).charge 1

theorem thumbLoaded_pc (regs : List Reg) (start : Word) (base : Reg) (final : Word) (s : State) :
    (thumbLoaded regs start base final s).pc = s.pc := by
  rw [thumbLoaded, accessedWords_eq]
  rfl

/-- The loads of a THUMB block after the write of its base. -/
theorem loadBlock_after_base {regs : List Reg} {start : Word} {base : Reg} {s : State} (hb : base ≠ 15) (final : Word)
    (plain : ∀ k, k < regs.length → plainAccess s .word (wordAt start k) = true) :
    let r := loadBlock s.mode regs start (s.setReg base final) none
    r.1.charge 1 = thumbLoaded regs start base final s ∧ r.2 = loadedPc (peek s .word) regs start none := by
  have based : s.setReg base final = s.withGprs (s.gpr.set (gprSlot base s.mode) final) := setReg_of_ne hb ..
  have loads : loadBlock s.mode regs start (s.setReg base final) none = _ :=
    loadBlock_eq _ _ _ _ _ (by rw [based]; exact plain)
  rw [based, accessedWords_withGprs] at loads
  rw [based, loads]
  exact ⟨rfl, rfl⟩

/-- A load of a list from storage or register cells ends with the jump of a loaded r15 or past the instruction (R351,
R353, R354). -/
theorem thumbLoadMultiple_eq {regs moved : List Reg} {start : Word} {base : Reg} {s : State}
    (block : movedRegs regs = moved) (hb : base ≠ 15) (final : Word)
    (plain : ∀ k, k < moved.length → plainAccess s .word (wordAt start k) = true)
    (last : (15 : Reg) ∈ moved → ∃ init, moved = init ++ [15]) :
    thumbLoadMultiple regs start base final s =
      let t := thumbLoaded moved start base final s
      if (15 : Reg) ∈ moved then t.jumped (peek s .word (wordAt start (moved.length - 1)))
      else { t with pc := s.pc + 2 } := by
  obtain ⟨loaded, value⟩ := loadBlock_after_base hb final plain
  unfold thumbLoadMultiple
  rw [← movedRegs, block]
  dsimp only
  rw [loaded, value]
  by_cases h : (15 : Reg) ∈ moved
  · obtain ⟨init, split⟩ := last h
    rw [if_pos h, split, loadedPc_of_last, List.length_append, List.length_singleton, Nat.add_sub_cancel]
    exact writePc_eq_jumped ..
  · rw [if_neg h, loadedPc_of_not_mem _ h]
    exact congrArg (fun p => State.withPc _ (p + 2)) (thumbLoaded_pc ..)

/-! ### The store -/

/-- The state after the words of a THUMB store of a list, before the base: `A + 6` for an empty list (R350, R352,
R354). -/
def listStored (value : Nat → Reg → Word) (regs : List Reg) (start : Word) (s : State) : State :=
  if regs = [] then memWrite .word (alignWord start) (emptyStoreValue s) s else storeBlock value 0 regs start s

/-- The words of a THUMB store to work RAM are a block of one word at least. -/
theorem listStored_stored (value : Nat → Reg → Word) {regs : List Reg} {start : Word} {s : State} (hm : s.MemoriesOk)
    (short : regs.length ≤ 16) (ram : ∀ k, k < max 1 regs.length → isRam s.params (wordAt start k)) :
    Stored s (listStored value regs start s) start (movedRegs regs) fun k r =>
      if regs = [] then s.pc + 6 else value k r := by
  by_cases empty : regs = []
  · subst empty
    exact storeBlock_stored (fun _ _ => s.pc + 6) [pcReg] 0 start s hm (by decide) ram
  · have stored := storeBlock_stored value regs 0 start s hm short fun k hk =>
      ram k (Nat.lt_of_lt_of_le hk (Nat.le_max_right ..))
    simp only [Nat.zero_add] at stored
    simpa only [listStored, if_neg empty, movedRegs_of_ne empty] using stored

/-- The end of a THUMB store: the base, then `pc` past the instruction (R350, R352). -/
theorem thumbStoreMultiple_eq (value : Nat → Reg → Word) {regs moved : List Reg} {start : Word} {base : Reg}
    {held : Nat → Reg → Word} (hb : base ≠ 15) (final : Word) {s : State}
    (stored : Stored s (listStored value regs start s) start moved held) :
    thumbStoreMultiple value regs start base final s =
      ((listStored value regs start s).withGprs (s.gpr.set (gprSlot base s.mode) final)).withPc (s.pc + 2) := by
  obtain ⟨gpr, cpsr, pc⟩ := stored.core
  have mode : (listStored value regs start s).mode = s.mode :=
    congrArg (fun x : Word => (Mode.ofCode (x.extractLsb' 0 5)).getD .usr) cpsr
  have advanced : thumbStoreMultiple value regs start base final s =
      (listStored value regs start s).ended 2 base final := advanceThumb_setReg hb ..
  rw [advanced, State.ended, if_neg hb, ← pc]
  simp only [gpr, mode]
  rfl

/-- A THUMB store of a list to work RAM: the words, every other byte kept, the rest of the next state (R350, R352,
R354). -/
theorem thumbStoreMultiple_spec (value : Nat → Reg → Word) {regs : List Reg} {start : Word} {base : Reg} {s : State}
    (hb : base ≠ 15) (final : Word) (hm : s.MemoriesOk) (short : regs.length ≤ 16)
    (ram : ∀ k, k < max 1 regs.length → isRam s.params (wordAt start k)) :
    let t := thumbStoreMultiple value regs start base final s
    (∀ k r, regs[k]? = some r → peek t .word (wordAt start k) = value k r) ∧
    (regs = [] → peek t .word (wordAt start 0) = s.pc + 6) ∧
    memoryKeptExcept s t (wordAt start 0) (4 * max 1 regs.length) ∧
    t =
      { s.accessedWords (wordsFrom start (max 1 regs.length)) with
        ewram := t.ewram
        iwram := t.iwram
        gpr := s.gpr.set (gprSlot base s.mode) final
        pc := s.pc + 2 } := by
  have stored := listStored_stored value hm short ram
  dsimp only
  rw [thumbStoreMultiple_eq value hb final stored, ← movedRegs_length]
  obtain ⟨words, others, rest⟩ := stored
  refine ⟨fun k r hk => ?_, fun empty => ?_, fun b _ outside _ => others b outside, ?_⟩
  · have nonempty : regs ≠ [] := fun e => by rw [e] at hk; cases hk
    exact (words k r (by rwa [movedRegs_of_ne nonempty])).trans (if_neg nonempty)
  · exact (words 0 pcReg (by rw [movedRegs, if_pos empty]; rfl)).trans (if_pos empty)
  · exact congrArg (fun x : State => (x.withGprs _).withPc (s.pc + 2)) rest

/-- PUSH is the shared store of its list below r13 (R350, R354). -/
theorem execThumbPush_eq (r : Bool) (rlist : BitVec 8) (s : State) :
    let regs := thumbRegs rlist r linkReg
    let start := s.gpr[gprSlot 13 s.mode] - BitVec.ofNat 32 (if regs = [] then 0x40 else 4 * regs.length)
    execThumbPush r rlist s = .next (thumbStoreMultiple (fun _ n => s.thumbReg n) regs start 13 start s) := by
  intro regs start
  have begins : s.thumbReg stackReg - thumbSpan regs = start := by rw [thumbReg_stack, thumbSpan_eq]
  rw [← begins]
  rfl

/-- STMIA is the shared store of its list from the base up (R352, R354). -/
theorem execThumbStmia_eq (rb : LoReg) (rlist : BitVec 8) (s : State) :
    let regs := lowRegs rlist
    let start := s.gpr[gprSlot rb.toReg s.mode]
    let final := start + BitVec.ofNat 32 (if regs = [] then 0x40 else 4 * regs.length)
    execThumbStmia rb rlist s =
      .next (thumbStoreMultiple (stmiaValue s rb start final) regs start rb.toReg final s) := by
  intro regs start final
  have begins : s.loReg rb = start := loReg_eq s rb
  have ends : start + thumbSpan regs = final := by rw [thumbSpan_eq]
  have list : thumbRegs rlist false pcReg = regs := List.append_nil regs
  rw [← ends, ← begins, ← list]
  rfl

end Sys2Proof.Machine

/-! ### The instructions

Outside `Machine`, where `thumbLoadMultiple` and `thumbStoreMultiple` name the model's own operations. -/

namespace Sys2Proof

open Machine

/-- POP and LDMIA are the shared load of their list (R351, R353). -/
theorem exec_pop_or_ldmia {i : Instr} {base : Reg} {extra : Bool} {rlist : BitVec 8}
    (form : i = .thumbPop extra rlist ∧ base = 13 ∨
      ∃ rb : LoReg, i = .thumbLdmia rb rlist ∧ base = rb.toReg ∧ extra = false) (s : State) :
    base ≠ 15 ∧
    exec i s = .next (Machine.thumbLoadMultiple (thumbRegs rlist extra pcReg) s.gpr[gprSlot base s.mode] base
      (s.gpr[gprSlot base s.mode] + thumbSpan (thumbRegs rlist extra pcReg)) s) := by
  obtain ⟨rfl, rfl⟩ | ⟨rb, rfl, rfl, rfl⟩ := form
  · rw [← thumbReg_stack s]
    exact ⟨by decide, rfl⟩
  · rw [← loReg_eq s rb]
    exact ⟨toReg_ne_pc rb, rfl⟩

/-- Settles O58: the registers by `loadedGprs`, the rest of the next state by `thumbLoadMultiple_eq`. -/
theorem thumbLoadMultiple : Obligations.ThumbLoadMultiple := by
  intro s rlist i base extra _ form low empty regs n start at' plain
  obtain ⟨hb, effect⟩ := exec_pop_or_ldmia form s
  have words : at' = wordAt start := funext fun k => (alignWord_eq _).symm
  have none_iff : thumbRegs rlist extra pcReg = [] ↔ empty = true :=
    (thumbRegs_eq_nil_iff ..).trans decide_eq_true_iff.symm
  have block : movedRegs (thumbRegs rlist extra pcReg) = regs := ite_congr (propext none_iff) (fun _ => rfl) fun _ => rfl
  have distinct : regs.Nodup := block ▸ movedRegs_nodup (thumbRegs_nodup rlist extra (by decide))
  have last : (15 : Reg) ∈ regs → ∃ init, regs = init ++ [15] := block ▸ movedRegs_eq_append
  have span : thumbSpan (thumbRegs rlist extra pcReg) = BitVec.ofNat 32 (if empty then 0x40 else 4 * n) := by
    rw [thumbSpan_eq]
    by_cases h : thumbRegs rlist extra pcReg = []
    · rw [if_pos h, if_pos (none_iff.mp h)]
    · rw [if_neg h, if_neg (mt none_iff.mpr h), ← movedRegs_of_ne h, block]
  rw [span] at effect
  rw [words] at plain ⊢
  generalize BitVec.ofNat 32 (if empty then 0x40 else 4 * n) = moved at effect ⊢
  refine ⟨(thumbLoaded regs start base (start + moved) s).gpr, fun k r hk hr => ?_, fun h => ?_, fun j h hj => ?_, ?_⟩
  · exact loadedGprs_loaded _ _ distinct hk hr ..
  · have kept (r : Reg) (hr : r ∈ regs) (hr' : r ≠ 15) : gprSlot r s.mode ≠ gprSlot base s.mode :=
      gprSlot_ne hr' hb (fun e => h (e ▸ hr)) s.mode
    exact (loadedGprs_other _ kept ..).trans (Vector.getElem_set_self _)
  · exact (loadedGprs_other _ h ..).trans (Vector.getElem_set_ne _ _ fun e => hj (Fin.ext e))
  · exact effect.trans (congrArg _ (thumbLoadMultiple_eq block hb _ plain last))

/-- Settles O59: the shared store with the values of PUSH and of STMIA. -/
theorem thumbStoreMultiple : Obligations.ThumbStoreMultiple := by
  intro s rlist hm low inRam at'
  have words : at' = wordAt := funext fun start => funext fun k => (alignWord_eq _).symm
  have register {regs : List Reg} {k : Nat} {n : Reg} (hk : regs[k]? = some n) (noPc : (15 : Reg) ∉ regs) :
      s.thumbReg n = s.gpr[gprSlot n s.mode] :=
    thumbReg_of_ne (ne_of_mem_of_not_mem (List.mem_of_getElem? hk) noPc) s
  rw [words]
  intro after
  refine ⟨fun r => ?_, fun rb => ?_⟩
  · intro regs sp start ram
    have short : regs.length ≤ 16 := Nat.le_trans (thumbRegs_length_le rlist r linkReg) (by decide)
    obtain ⟨stored, rest⟩ := thumbStoreMultiple_spec (fun _ n => s.thumbReg n) (base := 13) (by decide) start hm short
      ram
    exact ⟨_, execThumbPush_eq r rlist s,
      fun k n hk => (stored k n hk).trans (register hk (pc_not_mem_pushRegs rlist r)), rest⟩
  · intro start final ram
    have short : low.length ≤ 16 := Nat.le_trans (lowRegs_length_le rlist) (by decide)
    obtain ⟨stored, rest⟩ := thumbStoreMultiple_spec (stmiaValue s rb start final) (toReg_ne_pc rb) final hm short ram
    refine ⟨_, execThumbStmia_eq rb rlist s, fun k n hk => (stored k n hk).trans ?_, rest⟩
    rw [stmiaValue, register hk (pc_not_mem_lowRegs rlist)]

end Sys2Proof

/-! PROOFS. The entry of every kind of exception, in the words of the statement (R402, R403). -/

namespace Sys2Proof.Machine

/-- Settles O27: the row of each kind in `enterException_eq_entered`; T picks the return address of Undefined and SWI,
the others have one for both states. -/
theorem exceptionEntry : Obligations.ExceptionEntry := by
  intro s ret
  have one (offset : Word) : ret offset offset = s.pc + offset := congrArg (s.pc + ·) (ite_self _)
  have swi := enterException_swi (s := s) rfl
  rw [apply_ite (BitVec.ofNat 32)] at swi
  simp only [one]
  exact ⟨enterException_undefined s, swi,
    enterException_eq_entered (by decide) s, enterException_eq_entered (by decide) s,
    enterException_eq_entered (by decide) s, enterException_eq_entered (by decide) s⟩

end Sys2Proof.Machine

/-! PROOFS. User mode (R32, R33, R441): which status bits each effect leaves, then every instruction, then the step. -/

namespace Sys2Proof.Machine

/-! ### What an instruction does to the status word in User mode -/

/-- The status bits that no instruction of User mode reaches (R32, R33): bits 23 to 0 but T. -/
structure ControlKept (s t : State) : Prop where
  bits : ∀ j < 24, j ≠ 5 → t.cpsr.getLsbD j = s.cpsr.getLsbD j

theorem ControlKept.of_cpsr {s t : State} (h : t.cpsr = s.cpsr) : ControlKept s t := ⟨fun _ _ _ => by rw [h]⟩

theorem ControlKept.trans {s t u : State} (h : ControlKept s t) (k : ControlKept t u) : ControlKept s u :=
  ⟨fun j hj hT => (k.bits j hj hT).trans (h.bits j hj hT)⟩

/-- The flags lie above the control bits (R28). -/
theorem ControlKept.of_flags {s t : State} {n z c v : Bool} (h : t.cpsr = putFlags s.cpsr n z c v) : ControlKept s t :=
  ⟨fun _ hj _ => h ▸ putFlags_low _ _ _ _ _ (by omega)⟩

/-- An exchange of the state changes T alone (R28). -/
theorem ControlKept.of_thumb {s t : State} {b : Bool} (h : t.cpsr = putThumb s.cpsr b) : ControlKept s t :=
  ⟨fun j hj hT => by rw [h, putThumb_getLsbD _ _ (by omega), if_neg hT]⟩

theorem ControlKept.of_ite {s t u : State} {p : Prop} [Decidable p] (h : ControlKept s t) (k : ControlKept s u) :
    ControlKept s (if p then t else u) := by
  split
  · exact h
  · exact k

/-- The control bits hold the mode (R28). -/
theorem ControlKept.modeCode {s t : State} (h : ControlKept s t) : t.modeCode = s.modeCode := by
  apply BitVec.eq_of_getLsbD_eq
  intro j hj
  simp only [State.modeCode, BitVec.getLsbD_extractLsb', Nat.zero_add, h.bits j (by omega) (by omega)]

theorem ControlKept.mode {s t : State} (h : ControlKept s t) : t.mode = s.mode := by
  rw [State.mode, h.modeCode, State.mode]

/-! The operations below leave the status word alone. -/

@[simp] theorem writePc_cpsr (t : Word) (s : State) : (writePc t s).cpsr = s.cpsr := rfl
@[simp] theorem advanceArm_cpsr (s : State) : (advanceArm s).cpsr = s.cpsr := rfl
@[simp] theorem advanceThumb_cpsr (s : State) : (advanceThumb s).cpsr = s.cpsr := rfl

@[simp] theorem setBankReg_cpsr (n : Reg) (m : Mode) (v : Word) (s : State) : (s.setBankReg n m v).cpsr = s.cpsr := by
  rw [State.setBankReg, apply_ite State.cpsr, State.withGpr_cpsr, ite_self]

@[simp] theorem setReg_cpsr (n : Reg) (v : Word) (s : State) : (s.setReg n v).cpsr = s.cpsr := setBankReg_cpsr ..

@[simp] theorem writeArm_cpsr (rd : Reg) (v : Word) (s : State) : (writeArm rd v s).cpsr = s.cpsr := by
  simp [writeArm, apply_ite State.cpsr]

@[simp] theorem writeThumb_cpsr (rd : Reg) (v : Word) (s : State) : (writeThumb rd v s).cpsr = s.cpsr := by
  simp [writeThumb, apply_ite State.cpsr]

@[simp] theorem writeLong_cpsr (rd : Reg) (v : Word) (s : State) : (writeLong rd v s).cpsr = s.cpsr := by
  simp [writeLong, apply_ite State.cpsr]

@[simp] theorem writeBack_cpsr (rn : Reg) (v : Word) (wb : Bool) (s : State) : (writeBack rn v wb s).cpsr = s.cpsr := by
  simp [writeBack, apply_ite State.cpsr]

@[simp] theorem blockWriteBack_cpsr (w : Bool) (rn : Reg) (v : Word) (s : State) :
    (blockWriteBack w rn v s).cpsr = s.cpsr := by
  simp [blockWriteBack, apply_ite State.cpsr]

theorem OnBus.cpsr {s t : State} (h : OnBus s t) : t.cpsr = s.cpsr := by rw [h.same]

theorem Looked.cpsr {s t : State} (h : Looked s t) : t.cpsr = s.cpsr := h.onBus.cpsr

@[simp] theorem storeBlock_cpsr (value : Nat → Reg → Word) (k : Nat) (regs : List Reg) (a : Word) (s : State) :
    (storeBlock value k regs a s).cpsr = s.cpsr := (storeBlock_onBus ..).cpsr

@[simp] theorem loadBlock_cpsr (bank : Mode) (regs : List Reg) (a : Word) (s : State) (newPc : Option Word) :
    (loadBlock bank regs a s newPc).1.cpsr = s.cpsr := by
  induction regs generalizing a s newPc with
  | nil => rfl
  | cons r rest ih =>
    have read := (memRead_looked .word (alignWord a) s).cpsr
    rw [loadBlock]
    split
    · exact (ih ..).trans read
    · exact (ih ..).trans ((setBankReg_cpsr ..).trans read)

/-! The status operations, in User mode. -/

/-- An MSR merges the top byte alone (R32). -/
theorem mergedCpsr_control {s : State} (user : s.mode = .usr) (new mask : Word) {j : Nat} (hj : j < 24) (hT : j ≠ 5) :
    (mergedCpsr new mask true s).getLsbD j = s.cpsr.getLsbD j := by
  rw [mergedCpsr_getLsbD _ _ _ _ (by omega), if_neg fun h => hT h.2,
    if_neg fun h => absurd (h.2 ⟨user, rfl⟩) (by omega)]

/-- A mode field that takes the value it had leaves the control bits. -/
theorem putMode_control {w v : Word} (h : ∀ j < 24, j ≠ 5 → w.getLsbD j = v.getLsbD j) {j : Nat} (hj : j < 24)
    (hT : j ≠ 5) : (putMode w (v.extractLsb' 0 5)).getLsbD j = v.getLsbD j := by
  by_cases low : j < 5
  · have field := congrArg (BitVec.getLsbD · j) (putMode_mode w (v.extractLsb' 0 5))
    simpa [low] using field
  · exact (putMode_high _ _ (by omega)).trans (h j hj hT)

/-- An MSR of User mode reaches the top byte (R32), and no saved word (R37). -/
theorem msrWrite_controlKept {s : State} (user : s.mode = .usr) (p : StatusWord) (fsxc : BitVec 4) (operand : Word) :
    ControlKept s (msrWrite p fsxc operand s) := by
  have merged := fun j => mergedCpsr_control user operand (fieldMask fsxc) (j := j)
  cases p with
  | cpsr => exact .of_ite ⟨merged⟩ ⟨fun j => putMode_control merged⟩
  | spsr =>
    refine .of_cpsr ?_
    rw [msrWrite, user]
    rfl

/-- A status restore of User mode is an event (R37). -/
theorem restoreCpsr_controlKept {s : State} (user : s.mode = .usr) : ControlKept s (restoreCpsr s) := by
  refine .of_cpsr ?_
  rw [restoreCpsr, user]
  rfl

theorem readStatus_cpsr (p : StatusWord) (s : State) : (readStatus p s).2.cpsr = s.cpsr := by
  cases p with
  | cpsr => rfl
  | spsr =>
    rw [readStatus]
    split
    · rfl
    · exact State.logIf_cpsr ..

/-! ### The effects of the instructions -/

section Arm

variable (s : State)

theorem skip_controlKept (c : Cond) : ControlKept s (skip c s) := .of_cpsr (State.logIf_cpsr ..)

/-- The end of a data-processing instruction (R190): with S = 1 and r15 the status restore, else the flags. -/
theorem finishDp_controlKept (user : s.mode = .usr) (sf : Bool) (rd : Reg) (r : Word) (k : Nat) (n z c v : Bool) :
    ControlKept s (finishDp sf rd r (putFlags s.cpsr n z c v) (s.charge k)) := by
  unfold finishDp
  refine .of_ite (.trans ?_ (.of_cpsr (writePc_cpsr ..))) (.trans ?_ (.of_cpsr (advanceArm_cpsr _)))
  · exact .of_ite (.trans (t := s.charge k) (.of_cpsr rfl) (restoreCpsr_controlKept user)) (.of_cpsr rfl)
  · exact .of_ite (.of_flags rfl) (.of_cpsr (setReg_cpsr ..))

theorem logicalDp_controlKept (user : s.mode = .usr) (sf : Bool) (rd rn : Reg) (op2 : Operand2)
    (f : Word → Word → Word) : ControlKept s (logicalDp sf rd rn op2 f s) := finishDp_controlKept s user ..

theorem arithmeticDp_controlKept (user : s.mode = .usr) (sf : Bool) (rd rn : Reg) (op2 : Operand2)
    (f : Word → Word → Bool → Sum) : ControlKept s (arithmeticDp sf rd rn op2 f s) := finishDp_controlKept s user ..

theorem moveDp_controlKept (user : s.mode = .usr) (sf : Bool) (rd : Reg) (op2 : Operand2) (f : Word → Word) :
    ControlKept s (moveDp sf rd op2 f s) := finishDp_controlKept s user ..

theorem mrsEffect_controlKept (p : StatusWord) (rd : Reg) : ControlKept s (mrsEffect p rd s) := by
  refine .of_cpsr ?_
  rw [mrsEffect, writeArm_cpsr, State.logIf_cpsr, readStatus_cpsr]

theorem multiplyEffect_controlKept (sf : Bool) (rd rs rm : Reg) (acc : State → Word) (extra : Nat) (usesPc : Bool) :
    ControlKept s (multiplyEffect sf rd rs rm acc extra usesPc s) := by
  refine .trans ?_ (.of_cpsr (writeArm_cpsr ..))
  exact .of_ite (.of_flags rfl) (.of_cpsr (by simp))

theorem multiplyLongEffect_controlKept (signed acc sf : Bool) (rdHi rdLo rs rm : Reg) :
    ControlKept s (multiplyLongEffect signed acc sf rdHi rdLo rs rm s) := by
  have flagged (p : BitVec 64) (t : State) (h : t.cpsr = s.cpsr) :
      ControlKept s (if sf then t.withCpsr (nzFlags64 s.cpsr p) else t) := .of_ite (.of_flags rfl) (.of_cpsr h)
  have written (lo hi : Word) (t : State) :
      ControlKept t (if rdHi = 15 ∨ rdLo = 15 then writeLong rdHi hi (writeLong rdLo lo t)
        else advanceArm (writeLong rdHi hi (writeLong rdLo lo t))) :=
    .of_cpsr (by simp [apply_ite State.cpsr])
  exact (flagged _ _ (by simp)).trans (written ..)

theorem loadEffect_controlKept {load : Word → State → Word × State} (hl : ∀ a t, Looked t (load a t).2) (ad : Addressed)
    (rn rd : Reg) (toPc : Option Reason) : ControlKept s (loadEffect load ad rn rd toPc s) := by
  refine .of_cpsr ?_
  cases toPc <;> simp [loadEffect, (hl _ _).cpsr]

theorem storeEffect_controlKept {store : Word → Word → State → State} (hs : ∀ a v t, OnBus t (store a v t))
    (ad : Addressed) (rn rd : Reg) : ControlKept s (storeEffect store ad rn rd s) := by
  refine .of_cpsr ?_
  simp [storeEffect, (hs _ _ _).cpsr]

theorem swapEffect_controlKept {load : Word → State → Word × State} {store : Word → Word → State → State}
    (hl : ∀ a t, Looked t (load a t).2) (hs : ∀ a v t, OnBus t (store a v t)) (rn rd rm : Reg) :
    ControlKept s (swapEffect load store rn rd rm s) := by
  refine .of_cpsr ?_
  simp [swapEffect, (hl _ _).cpsr, (hs _ _ _).cpsr]

theorem ldmEffect_controlKept (user : s.mode = .usr) (mode : BlockMode) (sbit w : Bool) (rn : Reg) (list : BitVec 16) :
    ControlKept s (ldmEffect mode sbit w rn list s) := by
  have loaded (u : Bool) (final : Word) (bank : Mode) (regs : List Reg) (start : Word) : ControlKept s
      ((loadBlock bank regs start (blockWriteBack w rn final (blockEvents u w rn s)) none).1.charge 1) :=
    .of_cpsr (by simp)
  unfold ldmEffect
  dsimp only
  split
  · refine .trans (.of_ite ?_ (loaded ..)) (.of_cpsr (writePc_cpsr ..))
    exact (loaded ..).trans (restoreCpsr_controlKept ((loaded ..).mode.trans user))
  · exact (loaded ..).trans (.of_cpsr rfl)

theorem stmEffect_controlKept (mode : BlockMode) (sbit w : Bool) (rn : Reg) (list : BitVec 16) :
    ControlKept s (stmEffect mode sbit w rn list s) := by
  refine .of_cpsr ?_
  simp [stmEffect]

end Arm

section Thumb

variable (s : State)

theorem thumbSetReg_controlKept (rd : Reg) (v : Word) : ControlKept s (advanceThumb (s.setReg rd v)) :=
  .of_cpsr (setReg_cpsr ..)

theorem thumbLoad_controlKept {load : Word → State → Word × State} (hl : ∀ a t, Looked t (load a t).2) (a : Word)
    (rd : LoReg) : ControlKept s (thumbLoad load a rd s) :=
  .of_cpsr ((setReg_cpsr ..).trans (hl _ _).cpsr)

theorem thumbStore_controlKept {store : Word → Word → State → State} (hs : ∀ a v t, OnBus t (store a v t)) (a : Word)
    (rd : LoReg) : ControlKept s (thumbStore store a rd s) := .of_cpsr (hs a (s.loReg rd) s).cpsr

theorem thumbStoreMultiple_controlKept (value : Nat → Reg → Word) (regs : List Reg) (start : Word) (base : Reg)
    (final : Word) : ControlKept s (thumbStoreMultiple value regs start base final s) := by
  refine .trans (.of_ite ?_ ?_) (.of_cpsr (setReg_cpsr ..))
  · exact .of_cpsr (memWrite_onBus ..).cpsr
  · exact .of_cpsr (storeBlock_cpsr ..)

theorem thumbLoadMultiple_controlKept (regs : List Reg) (start : Word) (base : Reg) (final : Word) :
    ControlKept s (thumbLoadMultiple regs start base final s) := by
  refine .of_cpsr ?_
  unfold thumbLoadMultiple
  dsimp only
  split <;> simp

end Thumb

theorem branchExchange_controlKept (target : Word) (s : State) : ControlKept s (branchExchange target s) :=
  .of_thumb rfl

/-! ### All instructions -/

/-- What an instruction of User mode comes to: the control bits stay, or it takes the SWI or the Undefined exception
(R441). -/
inductive UserEffect (s t : State) : Prop where
  | kept (h : ControlKept s t)
  | swi (h : t = enterException .swi s)
  | undefined (h : t = enterException .undefined s)

theorem illegal_userEffect (tag : Tag) (s : State) : UserEffect s (illegal tag s) := by
  unfold illegal
  split
  · exact .kept (.of_cpsr rfl)
  · exact .undefined rfl

theorem UserEffect.of_next {s t u : State} (h : (.next u : Host.Outcome State Fault Refusal) = .next t)
    (hu : UserEffect s u) : UserEffect s t := by
  cases h
  exact hu

theorem UserEffect.of_gated {c : Cond} {effect : State → State} {s t : State} (h : gated c effect s = .next t)
    (he : UserEffect s (effect s)) : UserEffect s t := by
  refine .of_next h ?_
  split
  · exact he
  · exact .kept (skip_controlKept s c)

/-- An ARM instruction whose effect keeps the control bits. -/
theorem UserEffect.arm {c : Cond} {effect : State → State} {s t : State} (h : gated c effect s = .next t)
    (he : ControlKept s (effect s)) : UserEffect s t := .of_gated h (.kept he)

/-- A THUMB instruction whose effect keeps the control bits. -/
theorem UserEffect.thumb {s t u : State} (h : (.next u : Host.Outcome State Fault Refusal) = .next t)
    (hu : ControlKept s u) : UserEffect s t := .of_next h (.kept hu)

/-- Every instruction in User mode. -/
theorem exec_userEffect {i : Instr} {s t : State} (user : s.mode = .usr) (h : exec i s = .next t) : UserEffect s t := by
  cases i <;> dsimp only [exec] at h
  case armAnd | armEor | armOrr | armBic => exact .arm h (logicalDp_controlKept s user ..)
  case armSub | armRsb | armAdd | armAdc | armSbc | armRsc => exact .arm h (arithmeticDp_controlKept s user ..)
  case armMov | armMvn => exact .arm h (moveDp_controlKept s user ..)
  case armTst | armTeq | armCmp | armCmn => exact .arm h (.of_flags rfl)
  case armMul | armMla => exact .arm h (multiplyEffect_controlKept ..)
  case armUmull | armUmlal | armSmull | armSmlal => exact .arm h (multiplyLongEffect_controlKept ..)
  case armMrs | armMrsBit25 => exact .arm h (mrsEffect_controlKept ..)
  case armMsrReg | armMsrImm => exact .arm h ((msrWrite_controlKept user ..).trans (.of_cpsr rfl))
  case armLdr | armLdrt => exact .arm h (loadEffect_controlKept _ loadWord_looked ..)
  case armLdrb | armLdrbt => exact .arm h (loadEffect_controlKept _ loadByte_looked ..)
  case armLdrh => exact .arm h (loadEffect_controlKept _ loadHalf_looked ..)
  case armLdrsb => exact .arm h (loadEffect_controlKept _ loadSignedByte_looked ..)
  case armLdrsh => exact .arm h (loadEffect_controlKept _ loadSignedHalf_looked ..)
  case armStr | armStrt => exact .arm h (storeEffect_controlKept _ storeWord_onBus ..)
  case armStrb | armStrbt => exact .arm h (storeEffect_controlKept _ storeByte_onBus ..)
  case armStrh => exact .arm h (storeEffect_controlKept _ storeHalf_onBus ..)
  case armSwp => exact .arm h (swapEffect_controlKept _ loadWord_looked storeWord_onBus ..)
  case armSwpb => exact .arm h (swapEffect_controlKept _ loadByte_looked storeByte_onBus ..)
  case armLdm => exact .arm h (ldmEffect_controlKept s user ..)
  case armStm => exact .arm h (stmEffect_controlKept ..)
  case armB => exact .arm h (.of_cpsr rfl)
  case armBl => exact .arm h (.of_cpsr (setReg_cpsr ..))
  case armBx => exact .arm h (branchExchange_controlKept ..)
  case armSwi => exact .of_gated h (.swi rfl)
  case armBkpt | armUndMulSwap | armUndLdrdStrd | armUnd | armLdc | armStc | armCdp | armMrc | armMcr =>
    exact .of_gated h (illegal_userEffect ..)
  case thumbUndCond | thumbBkpt | thumbUnd1011 | thumbUndBlxReg | thumbUndBlxSuffix =>
    exact .of_next h (illegal_userEffect ..)
  case thumbSwi => exact .of_next h (.swi rfl)
  case thumbBCond => exact .thumb h (.of_ite (.of_cpsr rfl) (.of_cpsr rfl))
  case thumbB => exact .thumb h (.of_cpsr rfl)
  case thumbBlSecond => exact .thumb h (.of_cpsr (setReg_cpsr ..))
  case thumbBx => exact .thumb h (.trans (.of_cpsr (State.logIf_cpsr ..)) (branchExchange_controlKept ..))
  case thumbBlFirst | thumbAddSpImm | thumbAddSpNegImm | thumbAddPc | thumbAddSp =>
    exact .thumb h (thumbSetReg_controlKept ..)
  case thumbAddReg | thumbSubReg | thumbAddImm3 | thumbSubImm3 | thumbCmpImm | thumbAddImm8 | thumbSubImm8 | thumbAdc |
      thumbSbc | thumbNeg | thumbCmpReg | thumbCmn | thumbLslImm | thumbLsrImm | thumbAsrImm | thumbMovImm | thumbAnd |
      thumbEor | thumbTst | thumbOrr | thumbBic | thumbMvn | thumbMul | thumbLslReg | thumbLsrReg | thumbAsrReg |
      thumbRorReg => exact .thumb h (.of_flags rfl)
  case thumbAddHigh | thumbMovHigh => exact .thumb h (.of_cpsr ((writeThumb_cpsr ..).trans (State.logIf_cpsr ..)))
  case thumbCmpHigh => exact .thumb h (.trans (.of_cpsr (State.logIf_cpsr ..)) (.of_flags rfl))
  case thumbLdrPc => exact .thumb h (thumbLoad_controlKept _ (memRead_looked .word) ..)
  case thumbLdrReg | thumbLdrImm | thumbLdrSp => exact .thumb h (thumbLoad_controlKept _ loadWord_looked ..)
  case thumbLdrbReg | thumbLdrbImm => exact .thumb h (thumbLoad_controlKept _ loadByte_looked ..)
  case thumbLdrhReg | thumbLdrhImm => exact .thumb h (thumbLoad_controlKept _ loadHalf_looked ..)
  case thumbLdsbReg => exact .thumb h (thumbLoad_controlKept _ loadSignedByte_looked ..)
  case thumbLdshReg => exact .thumb h (thumbLoad_controlKept _ loadSignedHalf_looked ..)
  case thumbStrReg | thumbStrImm | thumbStrSp => exact .thumb h (thumbStore_controlKept _ storeWord_onBus ..)
  case thumbStrbReg | thumbStrbImm => exact .thumb h (thumbStore_controlKept _ storeByte_onBus ..)
  case thumbStrhReg | thumbStrhImm => exact .thumb h (thumbStore_controlKept _ storeHalf_onBus ..)
  case thumbPush | thumbStmia => exact .thumb h (thumbStoreMultiple_controlKept ..)
  case thumbPop | thumbLdmia => exact .thumb h (thumbLoadMultiple_controlKept ..)

/-! ### A step of User mode -/

/-- Entering an exception other than Reset, by what the handler finds (R402, R403). -/
structure Entered (kind : ExceptionKind) (s t : State) : Prop where
  pc : t.pc = vector kind
  cpsr : t.cpsr = handlerStatus s.cpsr (setsF kind) (targetMode kind)
  saved : t.spsr[targetSpsr kind] = s.cpsr
  tag : t.spsrValid[targetSpsr kind] = true

theorem alignPc_vector (kind : ExceptionKind) : alignPc false (vector kind) = vector kind := by cases kind <;> rfl

/-- A handler begins in ARM state, where the vectors are aligned (R402, R403). -/
theorem writePc_vector_pc {s : State} (arm : s.thumb = false) (kind : ExceptionKind) :
    (writePc (vector kind) s).pc = vector kind := by
  have pc : (writePc (vector kind) s).pc = alignPc s.thumb (vector kind) := rfl
  rw [pc, arm, alignPc_vector]

theorem enterException_entered {kind : ExceptionKind} (hk : kind ≠ .reset) (s : State) :
    Entered kind s (enterException kind s) := by
  rw [enterException_eq_entered hk, State.entered, ← handlerStatus_eq, ← writePc_eq_jumped]
  exact ⟨writePc_vector_pc (by exact handlerStatus_thumb ..) kind, rfl, Vector.getElem_set_self _,
    Vector.getElem_set_self _⟩

/-- The control bits stay, or the step took one of the exceptions that User mode can take (R441). -/
inductive UserOutcome (s t : State) : Prop where
  | kept (h : ControlKept s t)
  | entered (kind : ExceptionKind) (hk : kind = .undefined ∨ kind = .swi ∨ kind = .irq) (h : Entered kind s t)

/-- The same `pc` and status words, which is what the outcome of a step of User mode speaks of. -/
structure SameStatus (s t : State) : Prop where
  pc : t.pc = s.pc
  cpsr : t.cpsr = s.cpsr
  spsr : t.spsr = s.spsr
  spsrValid : t.spsrValid = s.spsrValid

theorem OnBus.sameStatus {s t : State} (h : OnBus s t) : SameStatus s t := by
  rw [h.same]
  exact ⟨rfl, rfl, rfl, rfl⟩

theorem SameStatus.trans {s t u : State} (h : SameStatus s t) (k : SameStatus t u) : SameStatus s u :=
  ⟨k.pc.trans h.pc, k.cpsr.trans h.cpsr, k.spsr.trans h.spsr, k.spsrValid.trans h.spsrValid⟩

theorem countDraw_sameStatus (s : State) : SameStatus s (countDraw s) := by
  unfold countDraw
  split <;> exact ⟨rfl, rfl, rfl, rfl⟩

theorem accountStep_sameStatus (s : State) : SameStatus s (accountStep s) := by
  have counted : SameStatus s
      (((countDraw s).withTally (stepCycles s)).withCyclesTotal (s.cyclesTotal + stepCycles s)) :=
    (countDraw_sameStatus s).trans ⟨rfl, rfl, rfl, rfl⟩
  exact counted.trans (timerAdvance_onBus ..).sameStatus

theorem finishStep_sameStatus (s : State) : SameStatus s (finishStep s) := by
  unfold finishStep
  split
  · exact ⟨rfl, rfl, rfl, rfl⟩
  · exact accountStep_sameStatus s

theorem SameStatus.kept {s t : State} (h : SameStatus s t) : UserOutcome s t := .kept (.of_cpsr h.cpsr)

/-- What comes after the effect and leaves `pc` and the status words does not matter. -/
theorem UserOutcome.before {s t u : State} (h : UserOutcome s t) (k : SameStatus t u) : UserOutcome s u := by
  obtain h | ⟨kind, hk, pc, cpsr, saved, tag⟩ := h
  · exact .kept (h.trans (.of_cpsr k.cpsr))
  · exact .entered kind hk ⟨k.pc.trans pc, k.cpsr.trans cpsr, k.spsr ▸ saved, k.spsrValid ▸ tag⟩

/-- What comes before the effect and leaves the status word does not matter. -/
theorem UserOutcome.after {s t u : State} (h : t.cpsr = s.cpsr) (k : UserOutcome t u) : UserOutcome s u := by
  obtain k | ⟨kind, hk, pc, cpsr, saved, tag⟩ := k
  · exact .kept (.trans (.of_cpsr h) k)
  · exact .entered kind hk ⟨pc, h ▸ cpsr, h ▸ saved, tag⟩

theorem UserEffect.outcome {s t : State} (h : UserEffect s t) : UserOutcome s t := by
  obtain h | rfl | rfl := h
  · exact .kept h
  · exact .entered _ (.inr (.inl rfl)) (enterException_entered (by decide) s)
  · exact .entered _ (.inl rfl) (enterException_entered (by decide) s)

/-- Before the instruction a step of User mode leaves the status word, or is over with an outcome of its own. -/
def StepPhase.UserFrom (s : State) : StepPhase → Prop
  | .over t => UserOutcome s t
  | .run _ t => t.cpsr = s.cpsr

theorem takeIrq_outcome (s : State) : UserOutcome s (takeIrq s) :=
  .after (t := (s.withLastIrq (irqWinner s)).charge 1) rfl
    (.entered _ (.inr (.inr rfl)) (enterException_entered (by decide) _))

theorem beginInstruction_userFrom {s t : State} (h : t.cpsr = s.cpsr) : (beginInstruction t).UserFrom s := by
  unfold beginInstruction
  split
  · exact .after h ((takeIrq_outcome t).before (accountStep_sameStatus _))
  · exact (fetch_looked t).cpsr.trans h

theorem beginStep_userFrom (s : State) : (beginStep s).UserFrom s := by
  have started (n : Nat) : SameStatus s (s.withTally n) := ⟨rfl, rfl, rfl, rfl⟩
  simp only [beginStep]
  split
  · exact (started 0).kept
  · split
    · exact ((started 0).trans ((dmaTick_onBus ‹_›).sameStatus.trans (accountStep_sameStatus _))).kept
    · split
      · split
        · exact ((started Config.haltTickCycles).trans (accountStep_sameStatus _)).kept
        · exact beginInstruction_userFrom rfl
      · exact beginInstruction_userFrom rfl

/-- A step in User mode, from any state (R160, R441). -/
theorem step_userOutcome {s t : State} (user : s.mode = .usr) (h : step s = .next t) : UserOutcome s t := by
  have phase := beginStep_userFrom s
  unfold step at h
  split at h
  · rename_i hover
    rw [hover] at phase
    cases h
    exact phase
  · rename_i i u hrun
    rw [hrun] at phase
    split at h
    · rename_i v hexec
      cases h
      have user' : u.mode = .usr := (ControlKept.of_cpsr phase).mode.trans user
      exact .after phase ((exec_userEffect user' hexec).outcome.before (finishStep_sameStatus v))
    · cases h
    · cases h

theorem mode_of_code {s : State} (h : s.cpsr.extractLsb' 0 5 = 0b10000#5) : s.mode = .usr := by
  rw [State.mode, State.modeCode, h]
  rfl

/-- Settles O18: a step of User mode keeps the control bits, the mode among them, or enters an exception, whose mode is
another. -/
theorem userModeIsLeftByException : Obligations.UserModeIsLeftByException := by
  intro s t _ user h
  obtain kept | ⟨kind, hk, pc, cpsr, saved, tag⟩ := step_userOutcome (mode_of_code user) h
  · refine ⟨fun _ => ?_, fun left => absurd (kept.modeCode.trans user) left⟩
    apply BitVec.eq_of_getLsbD_eq
    intro j hj
    rw [BitVec.getLsbD_extractLsb', BitVec.getLsbD_extractLsb', kept.bits (6 + j) (by omega) (by omega)]
  · have mode : t.cpsr.extractLsb' 0 5 = (targetMode kind).code := by rw [cpsr, handlerStatus_mode]
    have other : (targetMode kind).code ≠ 0b10000#5 := by obtain rfl | rfl | rfl := hk <;> decide
    have keepsF : setsF kind = false := by obtain rfl | rfl | rfl := hk <;> rfl
    refine ⟨fun stays => absurd (mode.symm.trans stays) other, fun _ => ⟨targetSpsr kind,
      (targetMode kind).code.setWidth 32, vector kind, ?row, pc, ?handler, saved, tag⟩⟩
    case row =>
      obtain rfl | rfl | rfl := hk
      · exact .inl rfl
      · exact .inr (.inl rfl)
      · exact .inr (.inr rfl)
    case handler => rw [cpsr, handlerStatus_eq, keepsF]

end Sys2Proof.Machine

/-! PROOFS. The steps that run no instruction (R160): a halted machine (R434, R435) and the interrupt entry (R413,
R421). -/

namespace Sys2Proof.Machine

/-! ### The end and the beginning of a step -/

/-- The accounting under the cycle table (R160 step 9). -/
theorem accountStep_of_table {s : State} (h : s.params.cycleModel = .table) :
    accountStep s = timerAdvance s.tally { s with cyclesTotal := s.cyclesTotal + s.tally } := by
  simp only [accountStep, stepCycles, countDraw, h]
  rfl

/-- The accounting under drawn counts (R180, log 7). -/
theorem accountStep_of_draw {s : State} (h : s.params.cycleModel = .draw) :
    let n := 1 + Config.drawCycles s.drawCount
    accountStep s =
      timerAdvance n { s with tally := n, cyclesTotal := s.cyclesTotal + n, drawCount := s.drawCount + 1 } := by
  simp only [accountStep, stepCycles, countDraw, h]
  rfl

/-- The step of a machine without a fatal record and without a DMA unit due (R160 steps 3 and 4). -/
theorem beginStep_of_live {s : State} (fatal : s.fatal = none) (dma : dmaEligible s = false) :
    beginStep s =
      if s.halted then
        if s.pending = 0 then .over (accountStep (s.withTally 1))
        else beginInstruction ((s.withTally 0).withHalted false)
      else beginInstruction (s.withTally 0) := by
  have noDma : dmaEligible (s.withTally 0) = false := dma
  simp only [beginStep, fatal, noDma, Option.isSome_none, Bool.false_eq_true, if_false]
  rfl

/-- A step that is over before the fetch. -/
theorem step_of_over {s t : State} (h : beginStep s = .over t) : step s = .next t := by
  rw [step, h]

/-! ### A halted machine -/

/-- Settles O11: without a pending source the step is the accounting of one cycle; with one both machines begin the same
instruction. -/
theorem haltedStep : Obligations.HaltedStep := by
  intro s fatal dma halted
  have begins := beginStep_of_live fatal dma
  rw [if_pos halted] at begins
  refine ⟨fun idle => ?_, fun wake => ?_⟩
  · rw [if_pos (show s.pending = 0 from idle)] at begins
    rw [step_of_over begins]
    refine ⟨fun table => congrArg _ (accountStep_of_table table), fun draw => ⟨_, Nat.le_add_right 1 _,
      congrArg _ (accountStep_of_draw draw)⟩⟩
  · rw [if_neg (show ¬s.pending = 0 from wake)] at begins
    have woken : beginStep (s.withHalted false) = beginStep s :=
      (beginStep_of_live (s := s.withHalted false) fatal dma).trans begins.symm
    show step s = step (s.withHalted false)
    rw [step, step, woken]

/-! ### The interrupt entry -/

theorem pending_getLsbD (s : State) (i : Fin 14) :
    s.pending.getLsbD i = (s.ie.getLsbD i && s.iflag.getLsbD i) := by
  have mask : (0x3FFF#16).getLsbD i = true := by
    revert i
    decide
  simp only [State.pending, BitVec.getLsbD_and, mask, Bool.and_true]

/-- A pending source is one of the fourteen (R421). -/
theorem exists_pending {s : State} (h : s.pending ≠ 0) : ∃ i : Fin 14, s.pending.getLsbD i = true := by
  by_contra none
  refine h (BitVec.eq_of_getLsbD_eq fun j hj => ?_)
  have masked : 14 ≤ j → (0x3FFF#16).getLsbD j = false := by
    revert j
    decide
  by_cases source : j < 14
  · simpa using fun bit => none ⟨⟨j, source⟩, bit⟩
  · simp [State.pending, masked (by omega)]

/-- The winner is the least pending source (R413). -/
theorem irqWinner_eq_some_iff (s : State) (i : Fin 14) :
    irqWinner s = some i ↔ s.pending.getLsbD i = true ∧ ∀ j : Fin 14, j < i → s.pending.getLsbD j = false := by
  rw [irqWinner, ← Fin.find?_eq_find?_finRange, Fin.find?_eq_some_iff]

theorem exists_irqWinner {s : State} (h : s.pending ≠ 0) : ∃ i : Fin 14, irqWinner s = some i := by
  rw [← Option.isSome_iff_exists, irqWinner, List.find?_isSome]
  obtain ⟨i, hi⟩ := exists_pending h
  exact ⟨i, List.mem_finRange i, hi⟩

theorem withHalted_self {s : State} {b : Bool} (h : s.halted = b) : s.withHalted b = s := by
  rw [← h]
  rfl

/-- A step of a live machine with an interrupt to take: awake, it enters the IRQ exception (R160 step 4). -/
theorem step_of_irqTaken {s : State} (fatal : s.fatal = none) (dma : dmaEligible s = false)
    (taken : irqTaken s = true) : step s = .next (accountStep (takeIrq ((s.withTally 0).withHalted false))) := by
  have enters : beginInstruction ((s.withTally 0).withHalted false) =
      .over (accountStep (takeIrq ((s.withTally 0).withHalted false))) := if_pos taken
  have pending : ¬s.pending = 0 := by
    simp only [irqTaken, Bool.and_eq_true, bne_iff_ne] at taken
    exact taken.2
  refine step_of_over ((beginStep_of_live fatal dma).trans ?_)
  rw [if_neg pending]
  split
  · exact enters
  · rename_i awake
    rwa [withHalted_self (s := s.withTally 0) (Bool.eq_false_of_not_eq_true awake)] at enters ⊢

/-- A look at the boot ROM costs one cycle (R101, R108). -/
theorem peekCost_bios {s : State} {a : Word} (h : a.toNat < 0x4000) (w : Width) (seq : Bool) :
    peekCost s w a seq = 1 := by
  refine peekCost_of_native ?_
  simp only [nativePeek, (device_eq_bios_iff s.params a).mpr h]

/-- The refill at a vector is two fetches from the boot ROM (R183). -/
theorem refillCycles_vector {s : State} (arm : s.thumb = false) (kind : ExceptionKind) :
    refillCycles s (vector kind) = 2 := by
  have size : s.isize = 4 := by rw [State.isize, arm]; rfl
  rw [refillCycles, size, peekCost_bios (by cases kind <;> decide), peekCost_bios (by cases kind <;> decide)]

theorem writePc_vector_tally {s : State} (arm : s.thumb = false) (kind : ExceptionKind) :
    (writePc (vector kind) s).tally = s.tally + 2 := by
  have tally : (writePc (vector kind) s).tally =
      s.tally + refillCycles (s.withPc (alignPc s.thumb (vector kind))) (alignPc s.thumb (vector kind)) := rfl
  rw [tally, arm, alignPc_vector, refillCycles_vector (s := s.withPc (vector kind)) arm]

/-- Entering an exception costs the refill at its vector (R185). -/
theorem enterException_tally {kind : ExceptionKind} (hk : kind ≠ .reset) (s : State) :
    (enterException kind s).tally = s.tally + 2 := by
  rw [enterException_eq_entered hk, State.entered, ← handlerStatus_eq, ← writePc_eq_jumped]
  exact writePc_vector_tally (by exact handlerStatus_thumb ..) kind

/-- The count that a step returns (R160 step 9). -/
theorem accountStep_tally (s : State) : (accountStep s).tally = stepCycles s := (timerAdvance_ticked ..).tally

theorem stepCycles_of_table {s : State} (h : s.params.cycleModel = .table) : stepCycles s = s.tally := by
  rw [stepCycles, h]

/-- Settles O12: the winner is the least pending source; the entry is that of the IRQ exception, with two cycles of
refill beside the one of the interrupt. -/
theorem interruptEntry : Obligations.InterruptEntry := by
  intro s fatal dma master clear pending
  have pending : s.pending ≠ 0 := pending
  obtain ⟨i, winner⟩ := exists_irqWinner pending
  obtain ⟨first, least⟩ := (irqWinner_eq_some_iff s i).mp winner
  have taken : irqTaken s = true := by
    simp only [irqTaken, State.irqOff, master, clear, Bool.not_false, Bool.true_and, bne_iff_ne]
    exact pending
  have entry : takeIrq ((s.withTally 0).withHalted false) =
      State.entered { s with halted := false, tally := 1, lastIrq := some i } (gprSlot 14 .irq) 1 (s.pc + 4) false 0x12
        0x00000018 := by
    rw [takeIrq, enterException_eq_entered (by decide), ← winner]
    rfl
  have enters := step_of_irqTaken fatal dma taken
  refine ⟨i, _, pending_getLsbD s i ▸ first, fun j hj => pending_getLsbD s j ▸ least j hj, enters,
    congrArg accountStep entry, fun table => ?_⟩
  have params := (takeIrq_accounted ((s.withTally 0).withHalted false)).params
  have tally : (accountStep (takeIrq ((s.withTally 0).withHalted false))).tally = 3 := by
    rw [accountStep_tally, stepCycles_of_table ((congrArg _ params).trans table)]
    exact enterException_tally (by decide) _
  exact ⟨tally, tally ▸ (step_accounted enters).cycles⟩

end Sys2Proof.Machine

/-! PROOFS. The return from an exception (R176), and the software interrupt with its return (R416). -/

namespace Sys2Proof.Machine

/-- A whole write of the status word takes the new one (R32). -/
theorem mergedCpsr_allOnes (new : Word) (s : State) : mergedCpsr new 0xFFFFFFFF#32 false s = new := by
  apply BitVec.eq_of_getLsbD_eq
  intro j hj
  have all : (0xFFFFFFFF#32).getLsbD j = true := by
    revert j
    decide
  rw [mergedCpsr_getLsbD _ _ _ _ hj, if_neg fun h => absurd h.1 Bool.false_ne_true,
    if_pos ⟨all, fun h => absurd h.2 Bool.false_ne_true⟩]

/-- A mode with a valid saved word takes it back and clears the tag (R176). -/
theorem restoreCpsr_of_saved {s : State} {m : Fin 5} (index : s.mode.spsrIndex = some m) (tag : s.spsrValid[m] = true)
    (valid : validMode (s.spsr[m].extractLsb' 0 5) = true) :
    restoreCpsr s = { s with cpsr := s.spsr[m], spsrValid := s.spsrValid.set m false } := by
  simp only [restoreCpsr, index, tag]
  rw [writeCpsr_of_valid (by rwa [mergedCpsr_allOnes]), mergedCpsr_allOnes]
  rfl

/-- `MOVS pc, lr` in a handler: the saved status word comes back and `pc` takes r14 by the restored T (R176, R190). -/
theorem exec_movs_pc_lr {s : State} {q : Mode} {m : Fin 5} (mode : s.mode = q) (index : q.spsrIndex = some m)
    (tag : s.spsrValid[m] = true) (valid : validMode (s.spsr[m].extractLsb' 0 5) = true) :
    exec (.armMov .al true 15 (.regImm 14 .lsl 0)) s =
      .next (writePc s.gpr[gprSlot 14 q] { s with cpsr := s.spsr[m], spsrValid := s.spsrValid.set m false }) := by
  subst mode
  have effect := moveDp_to_pc (s := s) (c := .al) rfl true (.regImm 14 .lsl 0) fun b => b
  rw [if_pos rfl, show s.charge (operand2Cycles (.regImm 14 .lsl 0)) = s from rfl, restoreCpsr_of_saved index tag valid,
    ← writePc_eq_jumped] at effect
  exact effect

/-- `pc` past an instruction is aligned as `pc` was (R27). -/
theorem alignPc_next {s : State} (h : alignPc s.thumb s.pc = s.pc) :
    alignPc s.thumb (s.pc + if s.thumb then 2 else 4) = s.pc + if s.thumb then 2 else 4 := by
  cases state : s.thumb with
  | false =>
    have done := (advanceArm_done (.refl s) state h).pc
    rwa [show (advanceArm s).thumb = false from state] at done
  | true =>
    have done := (advanceThumb_done (.refl s) state h).pc
    rwa [show (advanceThumb s).thumb = true from state] at done

/-- SWI in the state T names is the entry of its exception (R264, R372). -/
theorem exec_swi (s : State) (thumb : Bool) :
    exec (if thumb then .thumbSwi 0 else .armSwi .al 0) s = .next (enterException .swi s) := by
  cases thumb <;> rfl

/-- Supervisor mode's r14 is no register of User mode (R21, R22). -/
theorem gprSlot_usr_ne_link {n : Reg} (h : n ≠ 15) : (gprSlot n .usr).val ≠ (gprSlot 14 .svc).val := by
  intro same
  obtain ⟨rfl, bank⟩ := (gprSlot_eq_iff h (by decide) _ _).mp (Fin.ext same)
  revert bank
  decide

/-- What the entry of the software interrupt leaves beside `pc` and the status words: r14 of Supervisor mode is written
with the next instruction's address, and nothing is logged (R402). -/
theorem enterException_swi_link (s : State) :
    (enterException .swi s).gpr = s.gpr.set (gprSlot 14 .svc) (s.pc + if s.thumb then 2 else 4) ∧
    (enterException .swi s).diag = s.diag := by
  rw [enterException_swi (s := s) rfl, apply_ite (BitVec.ofNat 32)]
  exact ⟨rfl, rfl⟩

/-- Settles O29: the entry saves the status word and the return address where `MOVS pc, lr` finds them; the one register
written is none of User mode. -/
theorem softwareInterruptRoundTrip : Obligations.SoftwareInterruptRoundTrip := by
  intro s user aligned
  obtain ⟨-, handler, saved, tag⟩ := enterException_entered (kind := .swi) (by decide) s
  obtain ⟨gpr, diag⟩ := enterException_swi_link s
  have swi := exec_swi s s.thumb
  generalize enterException .swi s = t at *
  have mode : t.mode = .svc := by
    rw [State.mode, State.modeCode, handler, handlerStatus_mode]
    rfl
  have valid : validMode (t.spsr[targetSpsr .swi].extractLsb' 0 5) = true := by
    rw [saved, user]
    rfl
  have link : t.gpr[gprSlot 14 .svc] = s.pc + if s.thumb then 2 else 4 := by
    rw [gpr]
    exact Vector.getElem_set_self _
  have back := exec_movs_pc_lr (m := targetSpsr .swi) mode rfl tag valid
  rw [link, saved] at back
  refine ⟨t, _, swi, back, rfl, alignPc_next aligned, fun n hn => ?_, diag⟩
  exact (congrArg (·[gprSlot n .usr]) gpr).trans (Vector.getElem_set_ne _ _ (gprSlot_usr_ne_link hn).symm)

end Sys2Proof.Machine

/-! PROOFS. One cycle of the timer bank (R454, R455). The model ticks the channels in order and lets an overflow run on
through the chained channels at once; here the carry waits for the next channel's own turn, which comes to the same. -/

namespace Sys2Proof.Machine

/-! ### One channel, given the carry of the one before -/

/-- Channel `k` counts by itself; `chain` is ignored on channel 0 (R454). -/
def Timer.free (k : Fin 4) (t : Timer) : Bool := t.enabled && (k == 0 || !t.chain)

/-- The sub-counter reaches the divisor in the next cycle (R454). -/
def Timer.wraps (t : Timer) : Bool := decide (t.divisor ≤ t.sub + 1)

/-- The next increment overflows (R455). -/
def Timer.full (t : Timer) : Bool := t.counter == 0xFFFF#16

/-- Channel `k` advances, by itself or by the carry (R454, R455). -/
def Timer.advances (k : Fin 4) (carry : Bool) (t : Timer) : Bool :=
  t.enabled && if k == 0 || !t.chain then t.wraps else carry

/-- The counter after an increment (R455). -/
def Timer.next (t : Timer) : Half := if t.full then t.reload else t.counter + 1

/-- Channel `k` after one cycle. -/
def Timer.ticked (k : Fin 4) (carry : Bool) (t : Timer) : Timer :=
  { t with
    sub := if t.free k then (if t.wraps then 0 else t.sub + 1) else t.sub
    counter := if t.advances k carry then t.next else t.counter }

/-- The cycle of channel `k` alone: its timer, and its interrupt on an overflow if asked (R455). -/
def settle (k : Fin 4) (carry : Bool) (s : State) : State :=
  let t := s.timers[k]
  let u := s.withTimer k (t.ticked k carry)
  if t.advances k carry && t.full && t.irq then raiseInterrupt (3 + k.val) u else u

/-- A carry into the first of the listed channels, if it is chained (R455). -/
def carryInto (carry : Bool) (ks : List (Fin 4)) (s : State) : State :=
  match ks with
  | [] => s
  | k :: _ => if carry && (s.timers[k]).enabled && (s.timers[k]).chain then incrementFrom ks s else s

theorem carryInto_false (ks : List (Fin 4)) (s : State) : carryInto false ks s = s := by
  cases ks <;> rfl

/-- The increment of a channel alone. -/
def incrementAlone (k : Fin 4) (s : State) : State :=
  let t := s.timers[k]
  let u := s.withTimer k { t with counter := t.next }
  if t.full && t.irq then raiseInterrupt (3 + k.val) u else u

/-- An incrementAlone, and the carry it leaves for the channels after (R455). -/
theorem incrementFrom_cons (k : Fin 4) (rest : List (Fin 4)) (s : State) :
    incrementFrom (k :: rest) s = carryInto (s.timers[k]).full rest (incrementAlone k s) := by
  by_cases last : (s.timers[k]).counter = 0xFFFF#16
  · have full : (s.timers[k]).full = true := beq_iff_eq.mpr last
    have alone : incrementAlone k s = overflowTimer k s := by
      simp only [incrementAlone, overflowTimer, Timer.next, full, Bool.true_and, if_true]
    rw [alone, full]
    simp only [incrementFrom, if_pos last]
    cases rest with
    | nil => rfl
    | cons next rest => simp only [carryInto, Bool.true_and]
  · have full : (s.timers[k]).full = false := beq_eq_false_iff_ne.mpr last
    simp only [incrementFrom, if_neg last, full, carryInto_false, incrementAlone, Timer.next, Bool.false_and,
      Bool.false_eq_true, if_false]

theorem incrementAlone_timers (k : Fin 4) (s : State) :
    (incrementAlone k s).timers = s.timers.set k { s.timers[k] with counter := (s.timers[k]).next } := by
  unfold incrementAlone
  dsimp only
  split
  · rw [raiseInterrupt_frame]
    rfl
  · rfl

/-- An increment leaves the control cell of every channel, the carry likewise. -/
theorem incrementAlone_ctrl (k j : Fin 4) (s : State) : ((incrementAlone k s).timers[j]).ctrl = (s.timers[j]).ctrl := by
  rw [incrementAlone_timers]
  simp only [Fin.getElem_fin, Vector.getElem_set]
  split
  · rename_i same
    simp only [same]
  · rfl

theorem carryInto_ctrl (carry : Bool) (ks : List (Fin 4)) (j : Fin 4) (s : State) :
    ((carryInto carry ks s).timers[j]).ctrl = (s.timers[j]).ctrl := by
  induction ks generalizing carry s with
  | nil => rfl
  | cons k rest ih =>
    dsimp only [carryInto]
    split
    · rw [incrementFrom_cons, ih, incrementAlone_ctrl]
    · rfl

/-! ### The tick of a channel -/

theorem withTimer_self (k : Fin 4) (s : State) : s.withTimer k s.timers[k] = s := by
  unfold State.withTimer
  rw [show s.timers.set k s.timers[k] = s.timers from Vector.set_getElem_self ..]

theorem timers_withTimer_self (k : Fin 4) (t : Timer) (s : State) : (s.withTimer k t).timers[k] = t :=
  Vector.getElem_set_self _

theorem withTimer_withTimer (k : Fin 4) (t u : Timer) (s : State) :
    (s.withTimer k t).withTimer k u = s.withTimer k u := by
  simp only [State.withTimer, Vector.set_set]

/-- A channel that is off or waits for a carry has no cycle of its own (R454). -/
theorem tickChannel_of_not_free {k : Fin 4} {s : State} (h : (s.timers[k]).free k = false) : tickChannel k s = s := by
  refine if_neg ?_
  rw [show ((s.timers[k]).enabled && (k == 0 || !(s.timers[k]).chain)) = false from h]
  exact Bool.false_ne_true

/-- A channel that neither counts by itself nor gets a carry stays as it is. -/
theorem settle_of_idle {k : Fin 4} {carry : Bool} {s : State} (free : (s.timers[k]).free k = false)
    (idle : (s.timers[k]).advances k carry = false) : settle k carry s = s := by
  simp only [settle, Timer.ticked, free, idle, Bool.false_and, Bool.false_eq_true, if_false]
  exact withTimer_self k s

/-- A chained channel with a carry is incremented (R455). -/
theorem settle_of_carried {k : Fin 4} {carry : Bool} {s : State} (free : (s.timers[k]).free k = false)
    (carried : (s.timers[k]).advances k carry = true) : settle k carry s = incrementAlone k s := by
  simp only [settle, Timer.ticked, free, carried, Bool.true_and, Bool.false_eq_true, if_false, if_true, incrementAlone]

theorem Timer.advances_of_free {k : Fin 4} {t : Timer} (free : t.free k = true) (carry : Bool) :
    t.advances k carry = t.wraps := by
  obtain ⟨enabled, own⟩ := Bool.and_eq_true_iff.mp free
  rw [Timer.advances, enabled, if_pos own, Bool.true_and]

theorem Timer.advances_of_not_free {k : Fin 4} {t : Timer} (free : t.free k = false) (carry : Bool) :
    t.advances k carry = (t.enabled && carry) := by
  unfold Timer.advances
  unfold Timer.free at free
  cases enabled : t.enabled with
  | false => rfl
  | true =>
    rw [enabled, Bool.true_and] at free
    rw [if_neg (Bool.eq_false_iff.mp free)]

/-- A free-running channel counts, and on reaching its divisor is incremented (R454). -/
theorem tickChannel_of_free {k : Fin 4} {rest : List (Fin 4)} (listed : channelsFrom k = k :: rest) {s : State}
    (free : (s.timers[k]).free k = true) (carry : Bool) :
    tickChannel k s = carryInto ((s.timers[k]).advances k carry && (s.timers[k]).full) rest (settle k carry s) := by
  have tick : tickChannel k s =
      if (s.timers[k]).divisor ≤ (s.timers[k]).sub + 1 then
        incrementFrom (channelsFrom k) (s.withTimer k { s.timers[k] with sub := 0 })
      else s.withTimer k { s.timers[k] with sub := (s.timers[k]).sub + 1 } := if_pos free
  rw [tick, Timer.advances_of_free free]
  split
  · have wraps : (s.timers[k]).wraps = true := decide_eq_true ‹_›
    have alone : incrementAlone k (s.withTimer k { s.timers[k] with sub := 0 }) = settle k carry s := by
      simp only [incrementAlone, settle, timers_withTimer_self, withTimer_withTimer, Timer.ticked,
        Timer.advances_of_free free, free, wraps, Bool.true_and, if_true]
      rfl
    rw [listed, incrementFrom_cons, alone, timers_withTimer_self, wraps, Bool.true_and]
    rfl
  · have wraps : (s.timers[k]).wraps = false := decide_eq_false ‹_›
    simp only [settle, Timer.ticked, Timer.advances_of_free free, free, wraps, Bool.false_and, Bool.false_eq_true,
      if_false, if_true, carryInto_false]

/-- Whether a channel counts by itself is a matter of its control cell (R45). -/
theorem Timer.free_congr {t u : Timer} (h : t.ctrl = u.ctrl) (k : Fin 4) : t.free k = u.free k := by
  simp only [Timer.free, Timer.enabled, Timer.chain, h]

/-- A channel that counts by itself takes no carry. -/
theorem carryInto_of_free {k : Fin 4} {carry : Bool} {s : State} (first : k = 0 → carry = false)
    (free : (s.timers[k]).free k = true) (rest : List (Fin 4)) : carryInto carry (k :: rest) s = s := by
  refine if_neg fun takes => ?_
  simp only [Timer.free, Bool.and_eq_true, Bool.or_eq_true, Bool.not_eq_true', beq_iff_eq] at takes free
  obtain ⟨⟨carried, -⟩, chained⟩ := takes
  obtain ⟨-, rfl | unchained⟩ := free
  · exact Bool.false_ne_true ((first rfl).symm.trans carried)
  · exact Bool.false_ne_true (unchained.symm.trans chained)

theorem Timer.chain_of_not_free {k : Fin 4} {t : Timer} (free : t.free k = false) (on : t.enabled = true) :
    t.chain = true := by
  rw [Timer.free, on, Bool.true_and, Bool.or_eq_false_iff] at free
  simpa using free.2

/-- Any other channel takes a carry when it is on. -/
theorem carryInto_of_not_free {k : Fin 4} {s : State} (free : (s.timers[k]).free k = false) (carry : Bool)
    (rest : List (Fin 4)) :
    carryInto carry (k :: rest) s =
      if (s.timers[k]).advances k carry then carryInto (s.timers[k]).full rest (incrementAlone k s) else s := by
  have takes : (carry && (s.timers[k]).enabled && (s.timers[k]).chain) = (s.timers[k]).advances k carry := by
    rw [Timer.advances_of_not_free free, Bool.and_comm carry]
    cases on : (s.timers[k]).enabled with
    | false => rfl
    | true => rw [Timer.chain_of_not_free free on, Bool.and_true]
  rw [carryInto, takes, incrementFrom_cons]

/-- The tick of a channel after the carry into it: its own cycle, and the carry into the next. -/
theorem tickChannel_carryInto {k : Fin 4} {rest : List (Fin 4)} (listed : channelsFrom k = k :: rest) {carry : Bool}
    (first : k = 0 → carry = false) (s : State) :
    tickChannel k (carryInto carry (k :: rest) s) =
      carryInto ((s.timers[k]).advances k carry && (s.timers[k]).full) rest (settle k carry s) := by
  cases free : (s.timers[k]).free k with
  | true => rw [carryInto_of_free first free, tickChannel_of_free listed free]
  | false =>
    have stays : ((carryInto carry (k :: rest) s).timers[k]).free k = false :=
      (Timer.free_congr (carryInto_ctrl ..) k).trans free
    rw [tickChannel_of_not_free stays, carryInto_of_not_free free]
    cases carried : (s.timers[k]).advances k carry with
    | false => rw [settle_of_idle free carried, Bool.false_and, carryInto_false, if_neg Bool.false_ne_true]
    | true => rw [settle_of_carried free carried, Bool.true_and, if_pos rfl]

/-! ### The four channels -/

theorem settle_timers (k : Fin 4) (carry : Bool) (s : State) :
    (settle k carry s).timers = s.timers.set k ((s.timers[k]).ticked k carry) := by
  unfold settle
  dsimp only
  split
  · rw [raiseInterrupt_frame]
    rfl
  · rfl

theorem settle_timers_of_ne {k j : Fin 4} (h : k.val ≠ j.val) (carry : Bool) (s : State) :
    (settle k carry s).timers[j] = s.timers[j] := by
  rw [settle_timers]
  exact Vector.getElem_set_ne _ _ h

theorem settle_iflag_getLsbD (k : Fin 4) (carry : Bool) (s : State) (j : Nat) :
    (settle k carry s).iflag.getLsbD j = (s.iflag.getLsbD j ||
      (decide (j = 3 + k.val) && ((s.timers[k]).advances k carry && (s.timers[k]).full && (s.timers[k]).irq))) := by
  unfold settle
  dsimp only
  split
  · rename_i raises
    rw [raises, Bool.and_true, raiseInterrupt_iflag_getLsbD]
    simp only [show 3 + k.val < 14 by omega, and_true]
    rfl
  · rename_i silent
    rw [Bool.eq_false_of_not_eq_true silent, Bool.and_false, Bool.or_false]
    rfl

/-- The carry into channel `k` (R455). -/
def carryTo (s : State) : Nat → Bool
  | 0 => false
  | k + 1 => timerOverflows s k

theorem timerOf_eq (s : State) (k : Fin 4) : timerOf s k = s.timers[k] := by
  simp [timerOf]

theorem timerAdvances_eq (s : State) (k : Fin 4) : timerAdvances s k = (s.timers[k]).advances k (carryTo s k) := by
  obtain ⟨k, hk⟩ := k
  have channel : timerOf s k = s.timers[k] := timerOf_eq s ⟨k, hk⟩
  cases k with
  | zero =>
    rw [timerAdvances, channel]
    rfl
  | succ k =>
    rw [timerAdvances, channel]
    cases chained : (s.timers[k + 1]).chain with
    | false => simp [Timer.advances, Timer.wraps, chained]
    | true => simp [Timer.advances, chained, carryTo, timerOverflows]

theorem timerOverflows_eq (s : State) (k : Fin 4) :
    timerOverflows s k = ((s.timers[k]).advances k (carryTo s k) && (s.timers[k]).full) := by
  rw [timerOverflows, timerAdvances_eq, timerOf_eq]
  rfl

/-- The state after the first `n` channels have had their cycle. -/
def settled (s : State) : Nat → State
  | 0 => s
  | n + 1 => if h : n < 4 then settle ⟨n, h⟩ (carryTo s n) (settled s n) else settled s n

theorem settled_succ (s : State) (k : Fin 4) : settled s (k.val + 1) = settle k (carryTo s k) (settled s k) :=
  dif_pos k.isLt

theorem settled_timers (s : State) {n : Nat} (hn : n ≤ 4) (k : Fin 4) :
    (settled s n).timers[k] = if k.val < n then (s.timers[k]).ticked k (carryTo s k) else s.timers[k] := by
  induction n with
  | zero => rfl
  | succ n ih =>
    have ih := ih (by omega)
    have turn := settled_succ s ⟨n, hn⟩
    by_cases own : k.val = n
    · obtain rfl : k = ⟨n, hn⟩ := Fin.ext own
      rw [if_neg (Nat.lt_irrefl n)] at ih
      rw [turn, settle_timers, if_pos (Nat.lt_succ_self n), ← ih]
      exact Vector.getElem_set_self _
    · rw [turn, settle_timers_of_ne (Ne.symm own), ih]
      simp only [show k.val < n + 1 ↔ k.val < n by omega]

/-- A channel before its turn is as it was. -/
theorem settled_timers_turn (s : State) (k : Fin 4) : (settled s k).timers[k] = s.timers[k] := by
  rw [settled_timers s (Nat.le_of_lt k.isLt), if_neg (Nat.lt_irrefl _)]

theorem settled_iflag_getLsbD (s : State) {n : Nat} (hn : n ≤ 4) (j : Nat) :
    (settled s n).iflag.getLsbD j = (s.iflag.getLsbD j ||
      (decide (3 ≤ j ∧ j < 3 + n) && timerOverflows s (j - 3) && (timerOf s (j - 3)).irq)) := by
  induction n with
  | zero => simp [settled, show ¬(3 ≤ j ∧ j < 3) by omega]
  | succ n ih =>
    have turn := settled_succ s ⟨n, hn⟩
    rw [turn, settle_iflag_getLsbD, ih (by omega), settled_timers_turn, ← timerOverflows_eq, ← timerOf_eq]
    by_cases own : j = 3 + n
    · simp [own]
    · simp [own, show j < 3 + (n + 1) ↔ j < 3 + n by omega]

/-- The tick of a channel in its turn: its own cycle, and the carry onwards. -/
theorem tickChannel_settled (s : State) {k : Fin 4} {rest : List (Fin 4)} (listed : channelsFrom k = k :: rest) :
    tickChannel k (carryInto (carryTo s k) (k :: rest) (settled s k)) =
      carryInto (carryTo s (k.val + 1)) rest (settled s (k.val + 1)) := by
  have first : k = 0 → carryTo s k = false := by
    rintro rfl
    rfl
  rw [tickChannel_carryInto listed first, settled_timers_turn, ← timerOverflows_eq, carryTo, settled_succ]

/-- A cycle of the timer bank is the cycle of each channel in turn (R454, R455). -/
theorem timerTick_eq_settled (s : State) : timerTick s = settled s 4 :=
  calc timerTick s
    _ = tickChannel 3 (tickChannel 2 (tickChannel 1 (carryInto (carryTo s 1) [1, 2, 3] (settled s 1)))) :=
      congrArg (fun u => tickChannel 3 (tickChannel 2 (tickChannel 1 u))) (tickChannel_settled s (k := 0) rfl)
    _ = tickChannel 3 (tickChannel 2 (carryInto (carryTo s 2) [2, 3] (settled s 2))) :=
      congrArg (fun u => tickChannel 3 (tickChannel 2 u)) (tickChannel_settled s (k := 1) rfl)
    _ = tickChannel 3 (carryInto (carryTo s 3) [3] (settled s 3)) :=
      congrArg (tickChannel 3) (tickChannel_settled s (k := 2) rfl)
    _ = settled s 4 := tickChannel_settled s (k := 3) rfl

end Sys2Proof.Machine

namespace Sys2Proof

open Machine

/-- Settles O60: every channel has its cycle with the carry of the one before. -/
theorem timerTick : Obligations.TimerTick := by
  intro s t
  have ticked : Ticked s t := timerTick_ticked s
  have whole : t = settled s 4 := timerTick_eq_settled s
  refine ⟨ticked, fun k => ?_, fun j _ => ?_⟩
  · rw [whole, settled_timers s (Nat.le_refl 4), if_pos k.isLt, Timer.ticked, ← timerAdvances_eq]
    simp [Timer.free, Timer.wraps, Timer.next, Timer.full]
  · rw [whole, settled_iflag_getLsbD s (Nat.le_refl 4)]

end Sys2Proof

/-! PROOFS. What starts a DMA channel (R463, R464, R469): the count, a store that enables the channel, the events. -/

namespace Sys2Proof.Machine

/-! ### The count -/

/-- Fourteen bits of a halfword, as a number. -/
theorem and_3FFF_toNat (v : Half) : (v &&& 0x3FFF#16).toNat = v.toNat % 16384 := by
  rw [BitVec.toNat_and]
  exact Nat.and_two_pow_sub_one_eq_mod v.toNat 14

theorem eq_zero_iff_toNat (v : Half) : v = 0 ↔ v.toNat = 0 := BitVec.toNat_inj.symm

/-- The count of a channel in numbers (R464). -/
theorem DmaChannel.count_eq (c : DmaChannel) (x : Fin 4) :
    c.count x =
      if x = 3 then (if c.cntL.toNat = 0 then 65536 else c.cntL.toNat)
      else if c.cntL.toNat % 16384 = 0 then 16384 else c.cntL.toNat % 16384 := by
  simp only [DmaChannel.count, eq_zero_iff_toNat, and_3FFF_toNat]

/-! ### The store -/

/-- Bytes that cells cover do not go to the next device (R93). -/
theorem ioOuterWrites_of_cells {s : State} {a : Word} {n : Nat}
    (cells : ∀ i, i < n → (cellAt s.params (a + BitVec.ofNat 32 i).toNat).isSome = true) (v : Word) :
    ioOuterWrites a v n s = s := by
  induction n with
  | zero => rfl
  | succ n ih => simp only [ioOuterWrites, ih fun i hi => cells i (by omega), cells n (by omega), if_true]

/-- A store to register cells alone is accounted once and runs the hooks of the cells it overlaps (R93, R100). -/
theorem memWrite_of_cells {s : State} {w : Width} {a : Word}
    (cells : ∀ i, i < w.size → (cellAt s.params (a + BitVec.ofNat 32 i).toNat).isSome = true) (v : Word) :
    memWrite w a v s =
      writeCells a.toNat w.size v ((allCells s.params).filter (·.overlaps a.toNat w.size)) (s.accessed w a) := by
  have first : device s.params a = .io := by
    have start := cells 0 (by cases w <;> decide)
    rw [BitVec.add_zero] at start
    exact (device_eq_io_iff s.params a).mpr start
  have accounted : account a w.size 1 s = s.accessed w a :=
    account_eq_accessed (by simp only [nativePeek, first, ioOuterPeek_of_cells cells])
  have hooks := writeCells_onBus a.toNat w.size v (allCells s.params) (s.accessed w a) fun _ hc hi => allCells_dma hc hi
  have inner : ioWrite w a v s = writeCells a.toNat w.size v (allCells s.params) (s.accessed w a) := by
    rw [ioWrite, accounted]
    exact ioOuterWrites_of_cells (by rwa [hooks.params]) v
  have native : nativeWrite w a v s = some (ioWrite w a v s) := by simp only [nativeWrite, first]
  rw [memWrite_of_native native, inner, writeCells_filter]

theorem toLanes_self (base : Nat) (v : Word) : toLanes base base v = v := by
  rw [toLanes, if_pos (Nat.le_refl _), Nat.sub_self, Nat.mul_zero, BitVec.ushiftRight_zero]

/-- CNT_H of a channel, as a cell of the engine (R463). -/
theorem filter_overlaps_dmaCntH (x : Fin 4) :
    (dmaCells ++ coreCells).filter (·.overlaps (BitVec.ofNat 32 (0x040000BA + 12 * x.val)).toNat Width.half.size) =
      [.dmaCntH x] := by
  revert x
  decide

theorem dmaCntH_address (x : Fin 4) :
    (BitVec.ofNat 32 (0x040000BA + 12 * x.val)).toNat = (Cell.dmaCntH x).base := by
  revert x
  decide

theorem dmaCntH_overlaps (x : Fin 4) : (Cell.dmaCntH x).overlaps (Cell.dmaCntH x).base Width.half.size = true := by
  revert x
  decide

theorem covered_dmaCntH (x : Fin 4) : ∀ i < 2, ((dmaCells ++ coreCells).find?
    (·.covers (BitVec.ofNat 32 (0x040000BA + 12 * x.val) + BitVec.ofNat 32 i).toNat)).isSome = true := by
  revert x
  decide

/-- CNT_H takes a store through its hook (R463, R464). -/
theorem memWrite_dmaCntH {s : State} (present : s.params.dmaPresent = true) (x : Fin 4) (v : Word) :
    memWrite .half (BitVec.ofNat 32 (0x040000BA + 12 * x.val)) v s =
      { s.accessed .half (BitVec.ofNat 32 (0x040000BA + 12 * x.val)) with
        dma := s.dma.set x (DmaChannel.writeCntH x s.dma[x] (v.setWidth 16) (BitVec.allOnes 16)) } := by
  have cells : allCells s.params = dmaCells ++ coreCells := if_pos present
  have covered : ∀ i, i < Width.half.size →
      (cellAt s.params (BitVec.ofNat 32 (0x040000BA + 12 * x.val) + BitVec.ofNat 32 i).toNat).isSome = true := by
    intro i hi
    rw [cellAt, cells]
    exact covered_dmaCntH x i hi
  rw [memWrite_of_cells covered, cells, filter_overlaps_dmaCntH, dmaCntH_address, writeCells,
    if_pos (dmaCntH_overlaps x), writeCells, toLanes_self, toLanes_self, show (Cell.dmaCntH x).width = Width.half.size from rfl,
    BitVec.and_self]
  rfl

/-- A whole write of CNT_H that enables a channel latches its registers, and with timing 0 starts it (R464). -/
theorem DmaChannel.writeCntH_enabling {c : DmaChannel} (off : c.enabled = false) {v : Word} (on : v.getLsbD 15 = true)
    (x : Fin 4) :
    c.writeCntH x (v.setWidth 16) (BitVec.allOnes 16) =
      { c with
        cntH := c.cntH &&& 0x001F#16 ||| v.setWidth 16 &&& 0xFFE0#16
        srcLatch := c.sad
        dstLatch := c.dad
        dstStart := c.dad
        cntLatch := c.count x
        running := c.running || (v.extractLsb' 12 2 == 0#2) } := by
  have merged : mergeMasked c.cntH 0xFFE0#16 (v.setWidth 16) (BitVec.allOnes 16) =
      c.cntH &&& 0x001F#16 ||| v.setWidth 16 &&& 0xFFE0#16 := mergeMasked_allOnes ..
  have enable : (c.cntH &&& 0x001F#16 ||| v.setWidth 16 &&& 0xFFE0#16).getLsbD 15 = true := by
    simp [on]
  have timing : (c.cntH &&& 0x001F#16 ||| v.setWidth 16 &&& 0xFFE0#16).extractLsb' 12 2 = v.extractLsb' 12 2 := by
    apply BitVec.eq_of_getLsbD_eq
    intro j hj
    obtain rfl | rfl : j = 0 ∨ j = 1 := by omega
    · simp
    · simp
  have off : c.cntH.getLsbD 15 = false := off
  have immediate (b : BitVec 2) : (b.toNat == 0) = (b == 0#2) := by
    revert b
    decide
  simp only [DmaChannel.writeCntH, DmaChannel.enabled, DmaChannel.timing, merged, enable, timing, off, immediate,
    Bool.not_false, Bool.and_self, if_true]
  rfl

/-! ### The events -/

/-- A channel as a start event of a timing leaves it (R464). -/
def DmaChannel.started (timing : Nat) (c : DmaChannel) : DmaChannel :=
  if c.enabled = true ∧ c.timing = timing then { c with running := true } else c

/-- A start event for a channel; one that runs already stays as it is (R464). -/
theorem dmaStart_eq (timing : Nat) (x : Fin 4) (s : State) :
    dmaStart timing x s = s.withDma x ((s.dma[x]).started timing) := by
  have self : s.withDma x s.dma[x] = s := by
    unfold State.withDma
    rw [show s.dma.set x s.dma[x] = s.dma from Vector.set_getElem_self ..]
  by_cases starts : (s.dma[x]).enabled = true ∧ (s.dma[x]).timing = timing
  · cases running : (s.dma[x]).running with
    | false => simp only [dmaStart, DmaChannel.started, running, starts, and_self, beq_self_eq_true, Bool.not_false,
        Bool.and_self, if_true]
    | true =>
      have same : ({ s.dma[x] with running := true } : DmaChannel) = s.dma[x] := by rw [← running]
      simp only [dmaStart, DmaChannel.started, running, starts, and_self, same, self, Bool.not_true, Bool.and_false,
        Bool.false_and, Bool.false_eq_true, if_false, if_true]
  · have waits : ((s.dma[x]).enabled && !(s.dma[x]).running && (s.dma[x]).timing == timing) = false := by
      refine Bool.eq_false_iff.mpr fun h => starts ?_
      simp only [Bool.and_eq_true, beq_iff_eq] at h
      exact ⟨h.1.1, h.2⟩
    simp only [dmaStart, DmaChannel.started, if_neg starts, waits, self, Bool.false_eq_true, if_false]

theorem dmaStart_dma (timing : Nat) (x y : Fin 4) (s : State) :
    (dmaStart timing x s).dma[y] = if y = x then (s.dma[y]).started timing else s.dma[y] := by
  rw [dmaStart_eq]
  split
  · rename_i same
    subst same
    exact dma_set_self ..
  · rename_i other
    exact Vector.getElem_set_ne x.isLt y.isLt fun same => other (Fin.ext same.symm)

theorem dmaStartAll_dma (timing : Nat) (y : Fin 4) (s : State) :
    (dmaStartAll timing s).dma[y] = if s.params.dmaPresent then (s.dma[y]).started timing else s.dma[y] := by
  unfold dmaStartAll
  split
  · obtain rfl | rfl | rfl | rfl : y = 0 ∨ y = 1 ∨ y = 2 ∨ y = 3 := by omega
    all_goals simp only [dmaStart_dma]; rfl
  · rfl

/-- Settles O14: the count in numbers; the store runs the hook of CNT_H alone; an event starts each channel by
`DmaChannel.started`. -/
theorem dmaTriggers : Obligations.DmaTriggers := by
  refine ⟨DmaChannel.count_eq, fun s x v present off on => ?_, fun s y => ?_⟩
  · rw [memWrite_dmaCntH present, DmaChannel.writeCntH_enabling off on]
  · intro started
    have event (timing : Nat) : started timing =
        if s.params.dmaPresent then (s.dma[y]).started timing else s.dma[y] := ite_and ..
    refine ⟨?_, ?_, fun x => ?_⟩
    · rw [event]
      exact dmaStartAll_dma 1 y s
    · rw [event]
      exact dmaStartAll_dma 2 y s
    · rw [event, hostDmaSpecial]
      split
      · exact dmaStart_dma 3 x y s
      · exact (ite_self _).symm

end Sys2Proof.Machine

/-! PROOFS. The step over one instruction (R160): it always answers, and it runs what the bytes at `pc` decode to. -/

namespace Sys2Proof.Machine

/-! ### The step and its instruction -/

/-- No instruction of either encoding is refused and none faults. -/
theorem exec_next (i : Instr) (s : State) : ∃ t, exec i s = .next t := by
  cases i <;> exact ⟨_, rfl⟩

theorem step_next (s : State) : ∃ t, step s = .next t := by
  unfold step
  split
  · exact ⟨_, rfl⟩
  · rename_i i u _
    obtain ⟨t, runs⟩ := exec_next i u
    exact ⟨finishStep t, by rw [runs]⟩

/-- Settles O8: every arm of `exec` answers, so the step does in each of its phases (log 9). -/
theorem everyStepAnswers : Obligations.EveryStepAnswers := ⟨exec_next, step_next⟩

/-- A step that nothing ends before the fetch (R160 steps 0 to 4) runs the instruction fetched and ends with the
accounting. -/
theorem step_of_ready {s t u : State} {w : Word} (ready : s.ready = true)
    (fetched : memRead s.fetchWidth s.pc (s.withTally 0) = (w, t))
    (runs : exec (decodeFetched s.thumb w) (t.withIr w) = .next u) : step s = .next (finishStep u) := by
  simp only [State.ready, Bool.and_eq_true, Bool.not_eq_true', Option.isNone_iff_eq_none] at ready
  obtain ⟨⟨⟨fatal, dma⟩, halted⟩, irq⟩ := ready
  have noIrq : irqTaken (s.withTally 0) = false := irq
  have fetched : fetch (s.withTally 0) = (w, t) := fetched
  have begins : beginStep s = .run (decodeFetched s.thumb w) (t.withIr w) := by
    rw [beginStep_of_live fatal dma, if_neg (ne_true_of_eq_false halted)]
    simp only [beginInstruction, noIrq, fetched, Bool.false_eq_true, if_false]
    rfl
  simp only [step, begins, runs]

/-- Settles O9: `step_of_ready`, with the fetch from storage or register cells as `memRead_of_plain` has it. -/
theorem stepRunsDecodedInstruction : Obligations.StepRunsDecodedInstruction := by
  refine ⟨fun s i ready => ?_, fun s i ready plain decoded => ?_⟩
  · intro f decoded
    obtain ⟨u, runs⟩ := exec_next i (f.2.withIr f.1)
    rw [show exec i { f.2 with ir := f.1 } = .next u from runs]
    exact step_of_ready ready rfl (decoded ▸ runs)
  · obtain ⟨u, runs⟩ := exec_next i (((s.withTally 0).accessed s.fetchWidth s.pc).withIr (peek s s.fetchWidth s.pc))
    rw [show exec i { State.accessed { s with tally := 0 } s.fetchWidth s.pc with ir := peek s s.fetchWidth s.pc } =
      .next u from runs]
    exact step_of_ready ready (memRead_of_plain plain) (decoded ▸ runs)

end Sys2Proof.Machine

/-! PROOFS. Operands and operations (`40_common_execute.md`, `41_arm_data_processing.md`): the shifter, the second
operand, conditions, writes of `pc`, the return from an exception, the results of data processing. -/

namespace Sys2Proof.Machine

/-- Settles O24, by `writePc_eq_jumped`. -/
theorem programCounterWrite : Obligations.ProgramCounterWrite := writePc_eq_jumped

/-! ### The return from an exception -/

theorem restoreCpsr_absent {s : State} (h : s.mode = .usr ∨ s.mode = .sys) :
    restoreCpsr s = s.log (.spsrAbsent .restore) := by
  simp only [restoreCpsr, Mode.spsrIndex_absent h]

/-- The five modes with a saved word, by its place (R35). -/
theorem Mode.spsrIndex_of_place {q : Mode} {m : Fin 5} (h : q = [Mode.fiq, .irq, .svc, .abt, .und].getD m .usr) :
    q.spsrIndex = some m := by
  subst h
  revert m
  decide

theorem restoreCpsr_present {s : State} {m : Fin 5} (index : s.mode.spsrIndex = some m) :
    let stale : List DiagEvent := if s.spsrValid[m] then [] else [.staleSpsr s.mode]
    restoreCpsr s = writeCpsr s.spsr[m] 0xFFFFFFFF#32 false
      { s with spsrValid := s.spsrValid.set m false, diag := s.diag ++ stale } := by
  cases tag : s.spsrValid[m] <;> simp only [restoreCpsr, index, tag]
  · rfl
  · simp only [if_true, List.append_nil]
    rfl

/-- Settles O26: the modes by their saved word; a whole write of the status word stores the new one, or all of it but
the mode code. -/
theorem statusRestore : Obligations.StatusRestore := by
  refine fun s => ⟨restoreCpsr_absent, fun m mode => ?_⟩
  intro v stale
  have restored := restoreCpsr_present (Mode.spsrIndex_of_place mode)
  refine ⟨fun valid => ?_, fun invalid => ?_⟩
  · rw [restored, writeCpsr_of_valid (by rwa [mergedCpsr_allOnes, validMode_iff]), mergedCpsr_allOnes]
    rfl
  · rw [restored, writeCpsr_of_invalid (by rwa [mergedCpsr_allOnes, validMode_iff]), mergedCpsr_allOnes]
    rfl

/-! ### Data processing with a destination other than r15 -/

section Alu

variable {s : State} {c : Cond} (h : condPassed s c = true) (sf : Bool) {rd : Reg} (hd : rd ≠ 15) (rn : Reg)
  (op2 : Operand2)
include h

section Destination

include hd

theorem logicalDp_afterAlu (f : Word → Word → Word) :
    let r := f (firstOperand s rn op2) (operand2 s op2).value
    gated c (logicalDp sf rd rn op2 f) s =
      .next (s.afterAlu (some rd) r (if sf then bitStatus s.cpsr r (operand2 s op2).carry else s.cpsr) 4
        (operand2Cycles op2)) :=
  gated_next h (bitStatus_eq .. ▸ finishDp_of_ne sf hd ..)

theorem moveDp_afterAlu (f : Word → Word) :
    let r := f (operand2 s op2).value
    gated c (moveDp sf rd op2 f) s =
      .next (s.afterAlu (some rd) r (if sf then bitStatus s.cpsr r (operand2 s op2).carry else s.cpsr) 4
        (operand2Cycles op2)) :=
  gated_next h (bitStatus_eq .. ▸ finishDp_of_ne sf hd ..)

/-- The adder's value `r` is the result, its flags the status word `w`. -/
theorem arithmeticDp_afterAlu {f : Word → Word → Bool → Sum} {r w : Word}
    (value : (f (firstOperand s rn op2) (operand2 s op2).value s.c).value = r)
    (status : arithmeticFlags s.cpsr (f (firstOperand s rn op2) (operand2 s op2).value s.c) = w) :
    gated c (arithmeticDp sf rd rn op2 f) s =
      .next (s.afterAlu (some rd) r (if sf then w else s.cpsr) 4 (operand2Cycles op2)) :=
  gated_next h (value ▸ status ▸ finishDp_of_ne sf hd ..)

end Destination

theorem logicalTest_afterAlu (f : Word → Word → Word) :
    gated c (logicalTest rn op2 f) s =
      .next (s.afterAlu none 0 (bitStatus s.cpsr (f (firstOperand s rn op2) (operand2 s op2).value)
        (operand2 s op2).carry) 4 (operand2Cycles op2)) :=
  gated_next h (bitStatus_eq .. ▸ rfl)

theorem arithmeticTest_afterAlu {f : Word → Word → Sum} {w : Word}
    (status : arithmeticFlags s.cpsr (f (firstOperand s rn op2) (operand2 s op2).value) = w) :
    gated c (arithmeticTest rn op2 f) s = .next (s.afterAlu none 0 w 4 (operand2Cycles op2)) :=
  gated_next h (status ▸ rfl)

end Alu

/-- Settles O31: the three kinds of operation end in the numbers of the adder. -/
theorem armArithmetic : Obligations.ArmArithmetic := fun _ _ sf _ rn op2 h hd =>
  ⟨arithmeticDp_afterAlu h sf hd rn op2 (addWithCarry_false_value ..) (addStatus_eq ..),
    arithmeticDp_afterAlu h sf hd rn op2 (addWithCarry_value ..) (addStatus_eq ..),
    arithmeticDp_afterAlu h sf hd rn op2 (subWithCarry_true_value ..) (subStatus_eq ..),
    arithmeticDp_afterAlu h sf hd rn op2 (subWithCarry_value ..) (subStatus_eq ..),
    arithmeticDp_afterAlu h sf hd rn op2 (subWithCarry_true_value ..) (subStatus_eq ..),
    arithmeticDp_afterAlu h sf hd rn op2 (subWithCarry_value ..) (subStatus_eq ..),
    arithmeticTest_afterAlu h rn op2 (subStatus_eq ..),
    arithmeticTest_afterAlu h rn op2 (addStatus_eq ..)⟩

/-- Settles O32: the four kinds of operation end in the bitwise result with the shifter's carry. -/
theorem armLogical : Obligations.ArmLogical := fun _ _ sf _ rn op2 h hd =>
  ⟨logicalDp_afterAlu h sf hd rn op2 _, logicalDp_afterAlu h sf hd rn op2 _, logicalDp_afterAlu h sf hd rn op2 _,
    logicalDp_afterAlu h sf hd rn op2 _, moveDp_afterAlu h sf hd op2 _, moveDp_afterAlu h sf hd op2 _,
    logicalTest_afterAlu h rn op2 _, logicalTest_afterAlu h rn op2 _⟩

/-! ### Conditions -/

theorem condition_of_word (c : Cond) (body : BitVec 28) : (c.code ++ body).extractLsb' 28 4 = c.code := by
  rw [Laws.ext_append_hi (Nat.le_refl 28)]
  exact BitVec.extractLsb'_eq_self

/-- The condition of an ARM word is its upper four bits, and its instruction is gated by it (R124, R161). -/
theorem exec_gated {i : Instr} {w : Word} (h : encode i = .arm w) :
    ∃ (c : Cond) (effect : State → State), w.extractLsb' 28 4 = c.code ∧ ∀ s, exec i s = gated c effect s := by
  cases i <;> cases h <;> exact ⟨_, _, condition_of_word _ _, fun _ => rfl⟩

theorem Cond.code_eq_reserved_iff (c : Cond) : c.code = 0b1111#4 ↔ c = .nv := by cases c <;> decide

/-- A condition that fails moves `pc` on; the reserved code is logged (R161, R162). -/
theorem skip_eq (c : Cond) (s : State) :
    skip c s =
      { s with
        pc := s.pc + 4
        diag := s.diag ++ (if c.code = 0b1111#4 then [.reservedCondition s.pc s.ir] else []) } := by
  by_cases h : c = .nv
  · subst h
    rfl
  · rw [if_neg (mt (Cond.code_eq_reserved_iff c).mp h), List.append_nil, skip, beq_false_of_ne h]
    rfl

/-- Settles O23: the table code by code; an ARM instruction is gated by the condition of its word, whose skip changes
`pc` and the log. -/
theorem conditions : Obligations.Conditions := by
  refine ⟨fun s code => ?_, fun i w s _ word fails => ?_⟩
  · obtain ⟨n, hn⟩ := code
    interval_cases n <;> rfl
  · obtain ⟨c, effect, code, gates⟩ := exec_gated word
    rw [code, Laws.cond_code] at fails
    rw [gates, gated_fail fails, code, skip_eq]

end Sys2Proof.Machine

/-! PROOFS. The barrel shifter, the second operand and the size of a multiplier in numbers (R163 to R168, R174). -/

namespace Sys2Proof.Machine

/-! ### The barrel shifter -/

theorem shiftLsl_value (v : Word) (n : Nat) (cin : Bool) :
    (shiftLsl v n cin).value.toNat = v.toNat * 2 ^ n % 2 ^ 32 := by
  have gone (h : 32 ≤ n) : v.toNat * 2 ^ n % 2 ^ 32 = 0 :=
    Nat.mod_eq_zero_of_dvd ((Nat.pow_dvd_pow 2 h).mul_left _)
  unfold shiftLsl
  split
  · subst n
    rw [Nat.pow_zero, Nat.mul_one, Nat.mod_eq_of_lt v.isLt]
  · split
    · rw [BitVec.toNat_shiftLeft, Nat.shiftLeft_eq]
    · split <;> exact (gone (by omega)).symm

theorem shiftLsl_carry (v : Word) {n : Nat} (h : n ≠ 0) (cin : Bool) :
    (shiftLsl v n cin).carry = (v.toNat * 2 ^ n).testBit 32 := by
  rw [Nat.testBit_mul_two_pow, BitVec.testBit_toNat]
  unfold shiftLsl
  rw [if_neg h]
  split
  · simp [show n ≤ 32 by omega]
  · split
    · subst n
      rfl
    · simp [show ¬n ≤ 32 by omega]

theorem shiftLsr_value (v : Word) (n : Nat) (cin : Bool) : (shiftLsr v n cin).value.toNat = v.toNat / 2 ^ n := by
  have gone (h : 32 ≤ n) : v.toNat / 2 ^ n = 0 :=
    Nat.div_eq_of_lt (Nat.lt_of_lt_of_le v.isLt (Nat.pow_le_pow_right (by decide) h))
  unfold shiftLsr
  split
  · subst n
    simp
  · split
    · rw [BitVec.toNat_ushiftRight, Nat.shiftRight_eq_div_pow]
    · split <;> exact (gone (by omega)).symm

theorem shiftLsr_carry (v : Word) {n : Nat} (h : n ≠ 0) (cin : Bool) :
    (shiftLsr v n cin).carry = (v.toNat / 2 ^ (n - 1)).testBit 0 := by
  rw [Nat.testBit_div_two_pow, Nat.zero_add, BitVec.testBit_toNat]
  unfold shiftLsr
  rw [if_neg h]
  split
  · rfl
  · split
    · subst n
      rfl
    · exact (BitVec.getLsbD_of_ge v _ (by omega)).symm

/-- By 32 and more, every bit is the sign (R163). -/
theorem shiftAsr_value (v : Word) (n : Nat) (cin : Bool) : (shiftAsr v n cin).value = v.sshiftRight n := by
  unfold shiftAsr
  split
  · subst n
    simp
  · split
    · rfl
    · apply BitVec.eq_of_getLsbD_eq
      intro j hj
      rw [BitVec.getLsbD_sshiftRight, if_neg (show ¬n + j < 32 by omega), BitVec.msb_eq_getLsbD_last,
        decide_eq_false (show ¬32 ≤ j by omega)]
      have all : (0xFFFFFFFF#32).getLsbD j = true := by
        revert j
        decide
      cases v.getLsbD 31
      · exact BitVec.getLsbD_zero
      · exact all

theorem shiftAsr_carry (v : Word) {n : Nat} (h : n ≠ 0) (cin : Bool) :
    (shiftAsr v n cin).carry = (v.sshiftRight (n - 1)).getLsbD 0 := by
  rw [BitVec.getLsbD_sshiftRight, BitVec.msb_eq_getLsbD_last]
  unfold shiftAsr
  rw [if_neg h]
  split
  · simp [show n - 1 < 32 by omega]
  · by_cases last : n = 32
    · subst n
      simp
    · simp [show ¬n - 1 < 32 by omega]

theorem toInt_sshiftRight_eq (v : Word) (n : Nat) : (v.sshiftRight n).toInt = v.toInt / 2 ^ n := by
  rw [BitVec.toInt_sshiftRight, Int.shiftRight_eq_div_pow]
  rfl

theorem lowBit_eq (v : Word) : v.getLsbD 0 = decide (v.toInt % 2 = 1) := by
  have parity : v.getLsbD 0 = decide (v.toNat % 2 = 1) := by
    rw [← BitVec.testBit_toNat, Nat.testBit_zero]
  rw [parity, BitVec.toInt_eq_toNat_cond, decide_eq_decide]
  split <;> omega

theorem shiftRor_value (v : Word) (n : Nat) (cin : Bool) : (shiftRor v n cin).value = v.rotateRight n := by
  have whole (h : n % 32 = 0) : v.rotateRight n = v := by
    rw [BitVec.rotateRight, h]
    simp [BitVec.rotateRightAux]
  simp only [shiftRor]
  split
  · subst n
    exact (whole rfl).symm
  · split
    · exact (whole ‹_›).symm
    · rw [ror32_eq v (Nat.mod_lt n (by decide)), BitVec.rotateRight, BitVec.rotateRight, Nat.mod_mod]

theorem shiftRor_carry (v : Word) {n : Nat} (h : n ≠ 0) (cin : Bool) :
    (shiftRor v n cin).carry = (v.rotateRight n).getLsbD 31 := by
  rw [BitVec.getLsbD_rotateRight]
  simp only [shiftRor, if_neg h]
  split
  · rename_i turns
    simp [turns]
  · simp [show ¬31 < 32 - n % 32 by omega, show 31 - (32 - n % 32) = n % 32 - 1 by omega]

/-- Settles O20: each kind by its value and its carry. -/
theorem shifterMeaning : Obligations.ShifterMeaning := by
  intro v n cin _
  refine ⟨shiftLsl_value v n cin, ?_, shiftLsr_value v n cin, ?_, ?_, ?_, shiftRor_value v n cin, ?_⟩
  · split
    · subst n
      rfl
    · exact shiftLsl_carry v ‹_› cin
  · split
    · subst n
      rfl
    · exact shiftLsr_carry v ‹_› cin
  · rw [← toInt_sshiftRight_eq, ← shiftAsr_value v n cin]
    rfl
  · split
    · subst n
      rfl
    · rw [← toInt_sshiftRight_eq, ← lowBit_eq]
      exact shiftAsr_carry v ‹_› cin
  · split
    · subst n
      rfl
    · exact shiftRor_carry v ‹_› cin

/-! ### Operands -/

theorem imm5_eq_zero_iff (imm5 : BitVec 5) : imm5 = 0 ↔ imm5.toNat = 0 := BitVec.toNat_inj.symm

/-- The rotate through carry in numbers (R165). -/
theorem rrx_value (v : Word) (cin : Bool) : (rrx v cin).value.toNat = cin.toNat * 2 ^ 31 + v.toNat / 2 := by
  have low : (v.extractLsb' 1 31).toNat = v.toNat / 2 := by
    rw [BitVec.extractLsb'_toNat, Nat.shiftRight_eq_div_pow]
    have := v.isLt
    omega
  have bound := (v.extractLsb' 1 31).isLt
  have append : (rrx v cin).value.toNat = cin.toNat * 2 ^ 31 + (v.extractLsb' 1 31).toNat := by
    rw [show (rrx v cin).value = BitVec.ofBool cin ++ v.extractLsb' 1 31 from rfl, BitVec.toNat_append,
      ← Nat.shiftLeft_add_eq_or_of_lt bound, Nat.shiftLeft_eq, BitVec.toNat_ofBool]
  rw [append, low]

theorem rrx_carry (v : Word) (cin : Bool) : (rrx v cin).carry = decide (v.toNat % 2 = 1) := by
  rw [show (rrx v cin).carry = v.getLsbD 0 from rfl, ← BitVec.testBit_toNat, Nat.testBit_zero]

/-- Settles O21: a field of 0 is `imm5 = 0`, where ROR is the rotate through carry. -/
theorem immediateShifts : Obligations.ImmediateShifts := by
  intro v imm5 cin
  refine ⟨rfl, ?_, ?_, fun amount => ?_, fun zero => ?_⟩
  · simp only [shiftImm, imm5_eq_zero_iff]
  · simp only [shiftImm, imm5_eq_zero_iff]
  · simp only [shiftImm, imm5_eq_zero_iff, if_neg amount]
  · simp only [shiftImm, imm5_eq_zero_iff, if_pos zero]
    exact ⟨rrx_value v cin, rrx_carry v cin⟩

/-- Settles O22: what r15 reads is `reg_eq` at the distance of the form. -/
theorem secondOperand : Obligations.SecondOperand := by
  refine fun s => ⟨fun rot imm8 => ⟨rotatedImm_eq rot imm8, ?_, rfl, fun _ => rfl⟩, fun _ _ _ => ⟨rfl, rfl, fun _ => rfl⟩,
    fun rm kind rs => ?_⟩
  · simp only [operand2, State.c, show rot = 0 ↔ rot.toNat = 0 from BitVec.toNat_inj.symm]
  · intro x
    have far (n : Reg) : s.reg farAhead n = x n := reg_eq s 12 n
    refine ⟨?_, rfl, far⟩
    simp only [operand2, far, byteOf_zero_toNat]
    rfl

/-! ### The size of a multiplier -/

theorem ushiftRight_eq_zero_iff (v : Word) (n : Nat) : v >>> n = 0#32 ↔ v.toNat < 2 ^ n := by
  rw [← BitVec.toNat_inj, BitVec.toNat_ushiftRight, Nat.shiftRight_eq_div_pow]
  exact Nat.div_eq_zero_iff_lt (Nat.two_pow_pos n)

/-- The upper bits are all one when the word, read as a signed number, is negative and not below `-2 ^ n`. -/
theorem sshiftRight_eq_allOnes_iff (v : Word) {n : Nat} (h : n < 32) :
    v.sshiftRight n = 0xFFFFFFFF#32 ↔ 2 ^ 32 - 2 ^ n ≤ v.toNat := by
  have pos : (0 : Int) < 2 ^ n := by positivity
  have most : 2 ^ n ≤ 2 ^ 31 := Nat.pow_le_pow_right (by decide) (by omega)
  have bound := v.isLt
  have floor : v.toInt / 2 ^ n = -1 ↔ -1 * 2 ^ n ≤ v.toInt ∧ v.toInt < 0 * 2 ^ n := by
    rw [← Int.le_ediv_iff_mul_le pos, ← Int.ediv_lt_iff_lt_mul pos]
    omega
  rw [← BitVec.toInt_inj, toInt_sshiftRight_eq, show (0xFFFFFFFF#32).toInt = -1 from rfl, floor, BitVec.toInt_eq_toNat_cond,
    show (2 : Int) ^ n = ((2 ^ n : Nat) : Int) by norm_cast]
  split <;> omega

/-- The multiplier fits `n` bits, read as unsigned or, for a signed multiply, as signed (R174). -/
def multiplierFits (rs : Word) (signedOk : Bool) (n : Nat) : Prop :=
  rs.toNat < 2 ^ n ∨ signedOk = true ∧ 2 ^ 32 - 2 ^ n ≤ rs.toNat

theorem multiplierFits_iff (rs : Word) (signedOk : Bool) {n : Nat} (h : n < 32) :
    (rs >>> n == 0#32 || (signedOk && rs.sshiftRight n == 0xFFFFFFFF#32)) = true ↔ multiplierFits rs signedOk n := by
  rw [Bool.or_eq_true, Bool.and_eq_true, beq_iff_eq, beq_iff_eq, ushiftRight_eq_zero_iff, sshiftRight_eq_allOnes_iff rs h]
  rfl

theorem multiplierFits_mono {rs : Word} {signedOk : Bool} {m n : Nat} (h : multiplierFits rs signedOk m) (hmn : m ≤ n) :
    multiplierFits rs signedOk n := by
  have wider : 2 ^ m ≤ 2 ^ n := Nat.pow_le_pow_right (by decide) hmn
  rcases h with below | ⟨signed, above⟩
  · exact .inl (by omega)
  · exact .inr ⟨signed, by omega⟩

/-- The three tests of `MulCycles`, smallest first (R174). -/
theorem mulCycles_eq (rs : Word) (signedOk : Bool) [DecidablePred (multiplierFits rs signedOk)] :
    mulCycles rs signedOk =
      if multiplierFits rs signedOk 8 then 1 else if multiplierFits rs signedOk 16 then 2
      else if multiplierFits rs signedOk 24 then 3 else 4 := by
  simp only [mulCycles, multiplierFits_iff rs signedOk (show 8 < 32 by decide),
    multiplierFits_iff rs signedOk (show 16 < 32 by decide), multiplierFits_iff rs signedOk (show 24 < 32 by decide)]

/-- Settles O35: the first test that holds gives the count, and a multiplier that fails one fails the smaller ones. -/
theorem multiplyCycles : Obligations.MultiplyCycles := by
  classical
  intro rs signedOk fits
  have count := mulCycles_eq rs signedOk
  have wider {m n : Nat} (hmn : m ≤ n) (h : ¬multiplierFits rs signedOk n) : ¬multiplierFits rs signedOk m :=
    fun e => h (multiplierFits_mono e hmn)
  refine ⟨fun (h8 : multiplierFits rs signedOk 8) => ?_,
    fun (h8 : ¬multiplierFits rs signedOk 8) (h16 : multiplierFits rs signedOk 16) => ?_,
    fun (h16 : ¬multiplierFits rs signedOk 16) (h24 : multiplierFits rs signedOk 24) => ?_,
    fun (h24 : ¬multiplierFits rs signedOk 24) => ?_⟩
  · rw [count, if_pos h8]
  · rw [count, if_neg h8, if_pos h16]
  · rw [count, if_neg (wider (by decide) h16), if_neg h16, if_pos h24]
  · rw [count, if_neg (wider (m := 8) (by decide) h24), if_neg (wider (m := 16) (by decide) h24), if_neg h24]

end Sys2Proof.Machine

/-! PROOFS. The bus (`20_memory.md`): what an access can change, what loads and stores address, what each region
answers and costs, and the bytes that nothing answers. -/

namespace Sys2Proof.Machine

/-- Settles O44: `memRead_looked` and `memWrite_onBus`. -/
theorem busFrame : Obligations.BusFrame := fun s w a v => ⟨(memRead_looked w a s).same, (memWrite_onBus w a v s).same⟩

/-! ### The values of loads -/

theorem byteLane_eq (a : Word) : byteLane a = a.toNat % 4 := by
  rw [byteLane, BitVec.extractLsb'_toNat, Nat.shiftRight_zero]

theorem bit_zero_eq (a : Word) : a.getLsbD 0 = decide (a.toNat % 2 = 1) := by
  rw [← BitVec.testBit_toNat, Nat.testBit_zero]

/-- Settles O45: the aligned addresses and the misalignment as numbers. -/
theorem loadValues : Obligations.LoadValues := by
  intro a s wordAt halfAt
  have odd := bit_zero_eq a
  refine ⟨?_, ?_, rfl, rfl, fun h => ?_, fun h => ?_, fun v => ⟨?_, ?_, rfl⟩⟩
  · simp only [loadWord, alignWord_eq, byteLane_eq]
    rw [ror32_eq _ (by omega)]
  · simp only [loadHalf, alignHalf_eq, BitVec.extractLsb'_toNat, Nat.shiftRight_zero]
    rw [ror32_eq _ (by omega)]
  · rw [decide_eq_true h] at odd
    rw [loadSignedHalf, if_pos odd]
    rfl
  · rw [decide_eq_false (by omega)] at odd
    rw [loadSignedHalf, if_neg (ne_true_of_eq_false odd)]
    rfl
  · rw [storeWord, alignWord_eq]
  · rw [storeHalf, alignHalf_eq]

/-! ### Bytes of a value -/

theorem Width.size_le (w : Width) : w.size ≤ 4 := by cases w <;> decide

theorem byteOf_toNat (v : Word) (i : Nat) : (byteOf v i).toNat = v.toNat / 256 ^ i % 256 := by
  rw [byteOf, BitVec.extractLsb'_toNat, Nat.shiftRight_eq_div_pow, Nat.pow_mul]

theorem byteOf_fromBytes (f : Nat → Byte) {n i : Nat} (hi : i < n) (hn : n ≤ 4) : byteOf (fromBytes f n) i = f i := by
  apply BitVec.eq_of_getLsbD_eq
  intro j hj
  rw [byteOf, BitVec.getLsbD_extractLsb', fromBytes_getLsbD _ _ (by omega)]
  simp [hj, show 8 * i + j < 8 * n by omega, show (8 * i + j) / 8 = i by omega, show (8 * i + j) % 8 = j by omega]

theorem fromBytes_lt (f : Nat → Byte) (n : Nat) : (fromBytes f n).toNat < 256 ^ n := by
  rw [show (256 : Nat) = 2 ^ 8 from rfl, ← Nat.pow_mul]
  refine Nat.lt_pow_two_of_testBit _ fun j above => ?_
  rw [BitVec.testBit_toNat]
  by_cases hj : j < 32
  · rw [fromBytes_getLsbD _ _ hj, decide_eq_false (by omega), Bool.false_and]
  · exact BitVec.getLsbD_of_ge _ _ (by omega)

/-! ### Costs -/

theorem isSequential_iff (s : State) (a : Word) :
    isSequential s a = decide (s.seqNext = some a ∧ a.toNat % 0x20000 ≠ 0) := by
  have inside : (a &&& 0x1FFFF#32 != 0) = decide (a.toNat % 0x20000 ≠ 0) := by
    rw [bne, zero_eq, BitVec.toNat_and, show (0x1FFFF#32).toNat = 2 ^ 17 - 1 from rfl, Nat.and_two_pow_sub_one_eq_mod,
      decide_not]
  rw [isSequential, inside, Bool.decide_and, beq_eq_decide]

theorem firstWait_eq (waitcnt : Half) (bit : Nat) :
    firstWait (waitcnt.extractLsb' bit 2) = [4, 3, 2, 8].getD (waitcnt.toNat / 2 ^ bit % 4) 0 := by
  have field : ∀ b : BitVec 2, firstWait b = [4, 3, 2, 8].getD b.toNat 0 := by decide
  rw [field, BitVec.extractLsb'_toNat, Nat.shiftRight_eq_div_pow]

/-- The wait-state windows are the 32 MiB from 0x08000000, from 0x0A000000 and from 0x0C000000 (R104). -/
theorem window_eq {a : Word} (h : 0x08000000 ≤ a.toNat ∧ a.toNat < 0x0E000000) :
    window a = a.toNat / 0x02000000 - 4 := by
  rw [window, region, BitVec.extractLsb'_toNat, Nat.shiftRight_eq_div_pow]
  omega

theorem waitFirst_eq (waitcnt : Half) {a : Word} (h : 0x08000000 ≤ a.toNat ∧ a.toNat < 0x0E000000) :
    waitFirst waitcnt a =
      if a.toNat / 0x02000000 = 4 then firstWait (waitcnt.extractLsb' 2 2)
      else if a.toNat / 0x02000000 = 5 then firstWait (waitcnt.extractLsb' 5 2)
      else firstWait (waitcnt.extractLsb' 8 2) := by
  have windows : a.toNat / 0x02000000 = 4 ∨ a.toNat / 0x02000000 = 5 ∨ a.toNat / 0x02000000 = 6 := by omega
  rw [waitFirst, window_eq h]
  rcases windows with e | e | e <;> rw [e] <;> rfl

theorem waitSecond_eq (waitcnt : Half) {a : Word} (h : 0x08000000 ≤ a.toNat ∧ a.toNat < 0x0E000000) :
    waitSecond waitcnt a =
      if a.toNat / 0x02000000 = 4 then (if waitcnt.getLsbD 4 then 1 else 2)
      else if a.toNat / 0x02000000 = 5 then (if waitcnt.getLsbD 7 then 1 else 4)
      else (if waitcnt.getLsbD 10 then 1 else 8) := by
  have windows : a.toNat / 0x02000000 = 4 ∨ a.toNat / 0x02000000 = 5 ∨ a.toNat / 0x02000000 = 6 := by omega
  rw [waitSecond, window_eq h]
  rcases windows with e | e | e <;> rw [e] <;> rfl

/-! ### Bytes that nothing answers -/

/-- The `n` bytes from `a` up are unmapped (R73). -/
def unmappedFrom (p : Config.Params) (a : Word) (n : Nat) : Prop :=
  ∀ i, i < n → device p (a + BitVec.ofNat 32 i) = .none

theorem unmappedFrom_one {p : Config.Params} {a : Word} : unmappedFrom p a 1 ↔ device p a = .none := by
  simp [unmappedFrom]

theorem unmappedFrom_add {p : Config.Params} {a : Word} {m n : Nat} (h : unmappedFrom p a (m + n)) :
    unmappedFrom p a m ∧ unmappedFrom p (a + BitVec.ofNat 32 m) n := by
  refine ⟨fun i hi => h i (by omega), fun i hi => ?_⟩
  rw [BitVec.add_assoc, ← BitVec.ofNat_add]
  exact h (m + i) (by omega)

section Unmapped

variable {s : State} {a : Word}

theorem nativePeek_unmapped (h : device s.params a = .none) (w : Width) (seq : Bool) :
    nativePeek s w a seq = Option.none := by simp only [nativePeek, h]

theorem nativeRead_unmapped (h : device s.params a = .none) (w : Width) : nativeRead w a s = Option.none := by
  simp only [nativeRead, h]

theorem nativeWrite_unmapped (h : device s.params a = .none) (w : Width) (v : Word) :
    nativeWrite w a v s = Option.none := by simp only [nativeWrite, h]

theorem isCart_of_unmapped (h : device s.params a = .none) : isCart a = false :=
  Bool.eq_false_iff.mpr fun cart => by
    rw [(device_eq_cart_iff s.params a).mpr ((isCart_iff a).mp cart)] at h
    cases h

theorem peekCost_byte_unmapped (h : unmappedFrom s.params a 1) (seq : Bool) : peekCost s .byte a seq = 1 := by
  simp only [peekCost, nativePeek_unmapped (unmappedFrom_one.mp h), Option.getD_none]

theorem peekCost_half_unmapped (h : unmappedFrom s.params a (1 + 1)) (seq : Bool) : peekCost s .half a seq = 2 := by
  obtain ⟨low, high⟩ := unmappedFrom_add h
  have parts : peekCost s .half a seq = peekCost s .byte a seq + peekCost s .byte (a + BitVec.ofNat 32 1) seq := by
    simp only [peekCost, nativePeek_unmapped (unmappedFrom_one.mp low), Option.getD_none]
    rfl
  rw [parts, peekCost_byte_unmapped low, peekCost_byte_unmapped high]

theorem peekCost_word_unmapped (h : unmappedFrom s.params a (2 + 2)) (seq : Bool) : peekCost s .word a seq = 4 := by
  obtain ⟨low, high⟩ := unmappedFrom_add h
  have first := unmappedFrom_one.mp (unmappedFrom_add (m := 1) (n := 1) low).1
  have parts : peekCost s .word a seq = peekCost s .half a seq + peekCost s .half (a + BitVec.ofNat 32 2) seq := by
    show (nativePeek s .word a seq).getD _ = _
    rw [nativePeek_unmapped first]
    rfl
  rw [parts, peekCost_half_unmapped low, peekCost_half_unmapped high]

/-- An access of which nothing answers any byte costs one cycle a byte (R107, R108). -/
theorem peekCost_unmapped {w : Width} (h : unmappedFrom s.params a w.size) (seq : Bool) :
    peekCost s w a seq = w.size := by
  cases w with
  | byte => exact peekCost_byte_unmapped h seq
  | half => exact peekCost_half_unmapped h seq
  | word => exact peekCost_word_unmapped h seq

/-- The state after `n` unmapped bytes from `a` up are accounted and logged, one after the other (R87, R89). -/
def State.missedBytes (s : State) (a : Word) (n : Nat) (event : Word → DiagEvent) : State :=
  { s with
    tally := s.tally + n
    lastCost := 1
    seqNext := none
    diag := s.diag ++ (List.range n).map fun i => event (a + BitVec.ofNat 32 i) }

theorem missedBytes_missedBytes (m n : Nat) (event : Word → DiagEvent) :
    (s.missedBytes a m event).missedBytes (a + BitVec.ofNat 32 m) n event = s.missedBytes a (m + n) event := by
  have shift (i : Nat) : a + BitVec.ofNat 32 m + BitVec.ofNat 32 i = a + BitVec.ofNat 32 (m + i) := by
    rw [BitVec.add_assoc, ← BitVec.ofNat_add]
  simp only [State.missedBytes, List.range_add, List.map_append, List.map_map, Function.comp_def, shift,
    List.append_assoc, Nat.add_assoc]

theorem missedByte_eq (h : device s.params a = .none) (event : Word → DiagEvent) :
    account a 1 1 (s.log (event a)) = s.missedBytes a 1 event := by
  simp only [account, isCart_of_unmapped h, State.missedBytes, List.range_one, List.map_singleton, BitVec.add_zero]
  rfl

/-- The same byte over and over, in two parts (R60, R86). -/
theorem joinParts_fromBytes_const (b : Byte) (m n : Nat) :
    joinParts m (fromBytes (fun _ => b) m) (fromBytes (fun _ => b) n) = fromBytes (fun _ => b) (m + n) := by
  apply BitVec.eq_of_getLsbD_eq
  intro j hj
  rw [joinParts, BitVec.getLsbD_or, BitVec.getLsbD_shiftLeft, fromBytes_getLsbD _ _ hj,
    fromBytes_getLsbD _ _ (show j - 8 * m < 32 by omega), fromBytes_getLsbD _ _ hj]
  by_cases low : j < 8 * m
  · simp [low, show j < 8 * (m + n) by omega]
  · simp [low, hj, show (j - 8 * m) % 8 = j % 8 by omega, show j - 8 * m < 8 * n ↔ j < 8 * (m + n) by omega]

theorem read8_unmapped (h : unmappedFrom s.params a 1) :
    read8 a s = (fromBytes (fun _ => s.params.sentinel8) 1, s.missedBytes a 1 .unmappedRead) := by
  have nothing := unmappedFrom_one.mp h
  rw [read8, nativeRead_unmapped nothing, Option.getD_none, unmappedRead8, missedByte_eq nothing]
  simp [fromBytes]

theorem read16_unmapped (h : unmappedFrom s.params a (1 + 1)) :
    read16 a s = (fromBytes (fun _ => s.params.sentinel8) 2, s.missedBytes a 2 .unmappedRead) := by
  obtain ⟨low, high⟩ := unmappedFrom_add h
  have second := read8_unmapped (s := s.missedBytes a 1 .unmappedRead) high
  rw [read16, nativeRead_unmapped (unmappedFrom_one.mp low)]
  simp only [read8_unmapped low]
  rw [show a + 1 = a + BitVec.ofNat 32 1 from rfl, second, missedBytes_missedBytes]
  exact Prod.ext (joinParts_fromBytes_const _ 1 1) rfl

theorem read32_unmapped (h : unmappedFrom s.params a (2 + 2)) :
    read32 a s = (fromBytes (fun _ => s.params.sentinel8) 4, s.missedBytes a 4 .unmappedRead) := by
  obtain ⟨low, high⟩ := unmappedFrom_add h
  have second := read16_unmapped (s := s.missedBytes a 2 .unmappedRead) high
  rw [read32, nativeRead_unmapped (unmappedFrom_one.mp (unmappedFrom_add (m := 1) (n := 1) low).1)]
  simp only [read16_unmapped low]
  rw [show a + 2 = a + BitVec.ofNat 32 2 from rfl, second, missedBytes_missedBytes]
  exact Prod.ext (joinParts_fromBytes_const _ 2 2) rfl

/-- A read that nothing answers gives the sentinel in every byte (R87). -/
theorem memRead_unmapped {w : Width} (h : unmappedFrom s.params a w.size) :
    memRead w a s = (fromBytes (fun _ => s.params.sentinel8) w.size, s.missed w a .unmappedRead) := by
  cases w with
  | byte => exact read8_unmapped h
  | half => exact read16_unmapped h
  | word => exact read32_unmapped h

theorem write8_unmapped (h : unmappedFrom s.params a 1) (v : Word) :
    write8 a v s = s.missedBytes a 1 .unmappedWrite := by
  have nothing := unmappedFrom_one.mp h
  rw [write8, nativeWrite_unmapped nothing, Option.getD_none, unmappedWrite8, missedByte_eq nothing]

theorem write16_unmapped (h : unmappedFrom s.params a (1 + 1)) (v : Word) :
    write16 a v s = s.missedBytes a 2 .unmappedWrite := by
  obtain ⟨low, high⟩ := unmappedFrom_add h
  have second := write8_unmapped (s := s.missedBytes a 1 .unmappedWrite) high
  rw [write16, nativeWrite_unmapped (unmappedFrom_one.mp low)]
  simp only [write8_unmapped low]
  rw [show a + 1 = a + BitVec.ofNat 32 1 from rfl, second, missedBytes_missedBytes]

theorem write32_unmapped (h : unmappedFrom s.params a (2 + 2)) (v : Word) :
    write32 a v s = s.missedBytes a 4 .unmappedWrite := by
  obtain ⟨low, high⟩ := unmappedFrom_add h
  have second := write16_unmapped (s := s.missedBytes a 2 .unmappedWrite) high
  rw [write32, nativeWrite_unmapped (unmappedFrom_one.mp (unmappedFrom_add (m := 1) (n := 1) low).1)]
  simp only [write16_unmapped low]
  rw [show a + 2 = a + BitVec.ofNat 32 2 from rfl, second, missedBytes_missedBytes]

/-- A write that nothing answers changes the accounting and the log (R89). -/
theorem memWrite_unmapped {w : Width} (h : unmappedFrom s.params a w.size) (v : Word) :
    memWrite w a v s = s.missed w a .unmappedWrite := by
  cases w with
  | byte => exact write8_unmapped h v
  | half => exact write16_unmapped h v
  | word => exact write32_unmapped h v

end Unmapped

/-! ### Reads of the cartridge -/

theorem logBeyondRom_eq (a : Word) (n : Nat) (s : State) :
    logBeyondRom a n s =
      { s with
        diag := s.diag ++ ((List.range n).filter fun i =>
          decide (s.params.romSize ≤ cartOffset (a + BitVec.ofNat 32 i))).map
            fun i => .unmappedRead (a + BitVec.ofNat 32 i) } := by
  induction n with
  | zero => simp [logBeyondRom]
  | succ n ih =>
    rw [logBeyondRom, ih, List.range_succ, List.filter_append, List.map_append, ← List.append_assoc]
    cases beyond : decide (s.params.romSize ≤ cartOffset (a + BitVec.ofNat 32 n)) <;> simp [State.logIf, State.log, beyond]

/-- A read of the cartridge, beyond its image too, is accounted once (R80, R103). -/
theorem memRead_cart {s : State} {a : Word} (h : device s.params a = .cart) (w : Width) :
    memRead w a s =
      (fromBytes (fun i => cartByte s (a + BitVec.ofNat 32 i)) w.size,
        { s.accessed w a with diag := (logBeyondRom a w.size s).diag }) := by
  have native : nativeRead w a s = some (fromBytes (fun i => cartByte s (a + BitVec.ofNat 32 i)) w.size,
      account a w.size (cartCost s.waitcnt a w (isSequential s a)) (logBeyondRom a w.size s)) := by
    simp only [nativeRead, h]
  rw [memRead_of_native native, ← account_eq_accessed (c := cartCost s.waitcnt a w (isSequential s a))
    (by simp only [nativePeek, h]), logBeyondRom_eq]
  rfl

/-- Settles O42: `memRead_unmapped` and `memWrite_unmapped`; `memRead_cart` with the offsets of an aligned access. -/
theorem unmappedAccess : Obligations.UnmappedAccess := by
  refine ⟨fun s w a h => ?_, fun s w a aligned cart => ?_⟩
  · rw [memRead_unmapped h]
    exact ⟨rfl, fun i hi => byteOf_fromBytes _ hi w.size_le, fromBytes_lt _ _, memWrite_unmapped h⟩
  · intro offset
    have offsets {i : Nat} (hi : i < w.size) : cartOffset (a + BitVec.ofNat 32 i) = offset i := by
      rw [cartOffset_eq, toNat_add_lane aligned hi]
    rw [memRead_cart cart w]
    refine ⟨fun i hi => ?_, fromBytes_lt _ _, ?_⟩
    · rw [byteOf_fromBytes _ hi w.size_le, cartByte, offsets hi]
    · have beyond : ∀ i ∈ List.range w.size, decide (s.params.romSize ≤ cartOffset (a + BitVec.ofNat 32 i)) =
          decide (s.params.romSize ≤ offset i) := fun i hi => by rw [offsets (List.mem_range.mp hi)]
      rw [logBeyondRom_eq, List.filter_congr beyond]

/-! ### External devices -/

theorem isCart_of_ext {p : Config.Params} {a : Word} {d : Config.ExtDevice} (h : device p a = .ext d) :
    isCart a = false :=
  Bool.eq_false_iff.mpr fun cart => by
    rw [(device_eq_cart_iff p a).mpr ((isCart_iff a).mp cart)] at h
    cases h

section External

variable {s : State} {w : Width} {a : Word} {d : Config.ExtDevice} (h : device s.params a = .ext d)
include h

theorem memRead_ext (reads : extReads d w = true) : memRead w a s = extRead d w a s :=
  memRead_of_native (by simp only [nativeRead, h, reads, if_true])

theorem memWrite_ext (writes : extWrites d w = true) (v : Word) : memWrite w a v s = extWrite d w a v s :=
  memWrite_of_native (by simp only [nativeWrite, h, writes, if_true])

/-- A read that an external device supports changes the accounting and, of a foreign device, the count (R86). -/
theorem extRead_state :
    (extRead d w a s).2 =
      { s with
        tally := s.tally + extCost s.waitcnt d.cost a w false
        lastCost := extCost s.waitcnt d.cost a w false
        seqNext := none
        extCount := if d.kind = .foreign then s.extCount + 1 else s.extCount } := by
  cases kind : d.kind <;> simp only [extRead, kind, account, isCart_of_ext h] <;> rfl

/-- A write that an external device supports changes the accounting and the bytes of external storage (R88). -/
theorem extWrite_state (v : Word) :
    extWrite d w a v s =
      { s with
        tally := s.tally + extCost s.waitcnt d.cost a w true
        lastCost := extCost s.waitcnt d.cost a w true
        seqNext := none
        extMem :=
          if d.kind = .storage then
            s.extMem.setBytes (fun i => (a + BitVec.ofNat 32 i).toNat) (fun i => byteOf v i) w.size
          else s.extMem } := by
  cases kind : d.kind <;> simp only [extWrite, kind, account, isCart_of_ext h] <;> rfl

end External

theorem figureCycles_eq (waitcnt : Half) (f : Config.CostFigure) :
    figureCycles waitcnt f =
      match f with
      | .cycles n => n
      | .backup => 1 + [4, 3, 2, 8].getD (waitcnt.toNat / 2 ^ 0 % 4) 0 := by
  cases f with
  | cycles n => rfl
  | backup => rw [figureCycles, firstWait_eq]

/-- Settles O40: plain reads by `memRead_of_plain`; the costs region by region. -/
theorem busReads : Obligations.BusReads := by
  refine ⟨fun s w a => memRead_of_plain, fun s a => ⟨?_, isSequential_iff s a⟩, fun s w a seq => ?_⟩
  · rw [isCart, Bool.decide_and]
  · intro wait wait2 window first second figure
    refine ⟨fun h => ?_, fun h => ?_, fun h => ?_, fun h => ?_, fun h => ?_, fun h => peekCost_unmapped h seq, ?_⟩
    · exact peekCost_of_native (by simp only [nativePeek, h])
    · rw [peekCost_of_native (c := ewramCost w) (by simp only [nativePeek, h])]
      cases w <;> rfl
    · exact peekCost_of_native (by simp only [nativePeek, h])
    · have cells : ∀ i, i < w.size → (cellAt s.params (a + BitVec.ofNat 32 i).toNat).isSome = true := fun i hi =>
        (device_eq_io_iff ..).mp (h i hi)
      have first := h 0 (by cases w <;> decide)
      rw [BitVec.add_zero] at first
      exact peekCost_of_native (by simp only [nativePeek, first, ioOuterPeek_of_cells cells])
    · have region := (device_eq_cart_iff s.params a).mp h
      have one : 1 + waitFirst s.waitcnt a = first := by
        rw [waitFirst_eq _ region, firstWait_eq, firstWait_eq, firstWait_eq]
      have two : 1 + waitSecond s.waitcnt a = second := by
        rw [waitSecond_eq _ region]
      rw [peekCost_of_native (c := cartCost s.waitcnt a w seq) (by simp only [nativePeek, h])]
      cases w <;> simp only [cartCost, one, two] <;> rfl
    · intro d h reads f c
      have cost : extCost s.waitcnt d.cost a w false = c := by
        cases w <;> exact figureCycles_eq ..
      refine ⟨?_, ?_, fun storage i hi => ?_⟩
      · exact peekCost_of_native (by simp only [nativePeek, h, reads, if_true, cost])
      · rw [memRead_ext h reads, extRead_state h, cost]
      · rw [memRead_ext h reads, extRead, byteOf_fromBytes _ hi w.size_le, extByte, storage]

/-- Settles O41: work RAM by the bytes written and the others; storage devices by `Memory.setBytes`. -/
theorem busWrites : Obligations.BusWrites := by
  intro s w a v hm aligned
  refine ⟨fun ram => ⟨memWrite_ram_frame ram v, fun b i hi same => ?_, fun b => ?_⟩, fun h => ?_, ?_⟩
  · rw [peekByte_memWrite_same hm aligned ram v hi same, byteOf_toNat]
  · exact peekByte_memWrite_other hm aligned ram v
  · rcases h with h | h
    · rw [← account_eq_accessed (c := 1) (by simp only [nativePeek, h])]
      exact memWrite_of_native (by simp only [nativeWrite, h])
    · rw [← account_eq_accessed (c := cartCost s.waitcnt a w (isSequential s a)) (by simp only [nativePeek, h])]
      exact memWrite_of_native (by simp only [nativeWrite, h])
  · intro d h writes f c t
    have cost : extCost s.waitcnt d.cost a w true = c := by cases w <;> rfl
    have state := (memWrite_ext h writes v).trans (extWrite_state h v)
    rw [cost] at state
    have stored : t.extMem = _ := congrArg State.extMem state
    refine ⟨by rw [stored]; exact state, fun foreign => ?_, fun storage => ⟨fun i hi => ?_, fun b outside => ?_⟩⟩
    · rw [stored, foreign]
      rfl
    · rw [stored, if_pos storage, ← toNat_add_lane aligned hi, Memory.get_setBytes hm.extMem _ _ _ _ hi, byteOf_toNat]
      intro j k hj hk e
      rw [toNat_add_lane aligned hj, toNat_add_lane aligned hk] at e
      omega
    · rw [stored, if_pos storage]
      refine Memory.get_setBytes_other hm.extMem _ _ _ _ fun i hi => ?_
      rw [toNat_add_lane aligned hi]
      omega

end Sys2Proof.Machine

/-! PROOFS. One unit of a DMA channel (R160 step 2, R467, R468) between storage of the core and work RAM. -/

namespace Sys2Proof.Machine

/-! ### The step of a running channel -/

theorem runningChannel_eq_some_iff (s : State) (x : Fin 4) :
    runningChannel s = some x ↔ (s.dma[x]).running = true ∧ ∀ y : Fin 4, y < x → (s.dma[y]).running = false := by
  rw [runningChannel, ← Fin.find?_eq_find?_finRange, Fin.find?_eq_some_iff]

/-- The step of a machine with a running channel moves one unit of it (R160 step 2). -/
theorem step_of_running {s : State} {x : Fin 4} (fatal : s.fatal = none) (present : s.params.dmaPresent = true)
    (running : runningChannel s = some x) : step s = .next (accountStep (dmaUnit x (s.withTally 0))) := by
  have lowest : runningChannel (s.withTally 0) = some x := running
  have eligible : dmaEligible (s.withTally 0) = true := by
    simp only [dmaEligible, lowest, State.withTally_params, present, Option.isSome_some, Bool.and_self]
  have begins : beginStep s = .over (accountStep (dmaTick (s.withTally 0))) := by
    simp only [beginStep, fatal, eligible, Option.isSome_none, Bool.false_eq_true, if_false, if_true]
  rw [step_of_over begins, dmaTick, lowest]

/-! ### The latched copies -/

theorem raiseInterrupt_dma (n : Nat) (s : State) : (raiseInterrupt n s).dma = s.dma := by
  rw [raiseInterrupt_frame]

theorem DmaChannel.completed_eq (x : Fin 4) (c : DmaChannel) :
    c.completed x =
      if c.repeats = true ∧ c.timing ≠ 0 then
        { c with dstLatch := if c.dstStep = 3 then c.dstStart else c.dstLatch, cntLatch := c.count x, running := false }
      else { c with running := false, cntH := c.cntH &&& 0x7FFF#16 } := by
  simp only [DmaChannel.completed, Bool.and_eq_true, bne_iff_ne]

/-- The end of a unit changes the channel and, when the last unit asks for it, the interrupt flags (R467, R468). -/
theorem dmaAdvance_eq (u : Nat) (x : Fin 4) (s : State) :
    let c := dmaStep u s.dma[x]
    dmaAdvance u x s =
      { s with
        iflag := if c.cntLatch = 0 ∧ c.irq = true then s.iflag ||| 1#16 <<< (8 + x.val) else s.iflag
        dma := s.dma.set x (if c.cntLatch = 0 then c.completed x else c) } := by
  intro c
  have source : 8 + x.val < 14 := by omega
  simp only [dmaAdvance, dma_set_self, show dmaStep u s.dma[x] = c from rfl]
  by_cases last : c.cntLatch = 0
  · rw [if_pos last]
    simp only [dmaComplete, dma_set_self, raiseInterrupt_of_lt source]
    cases irq : c.irq
    · simp only [last, Bool.false_eq_true, and_false, if_false, if_true, withDma_withDma]
      rfl
    · simp only [last, and_self, if_true, State.withDma, State.withIflag, Vector.set_set]
  · simp only [last, false_and, if_false]
    rfl

theorem dmaAlign_eq (c : DmaChannel) (a : Word) :
    dmaAlign c a = BitVec.ofNat 32 (a.toNat / (dmaWidth c).size * (dmaWidth c).size) := by
  cases unit : c.unit32 <;> simp only [dmaAlign, dmaWidth, unit, Bool.false_eq_true, if_false, if_true]
  · exact alignHalf_eq a
  · exact alignWord_eq a

theorem dmaAlign_mod (c : DmaChannel) (a : Word) : (dmaAlign c a).toNat % (dmaWidth c).size = 0 := by
  have := a.isLt
  rw [dmaAlign_eq, BitVec.toNat_ofNat]
  cases dmaWidth c <;> simp only [Width.size] <;> omega

/-! ### One unit -/

/-- Register cells apart, memory does not show what the channels and the interrupt flags hold. -/
theorem peekByte_of_not_io {s : State} {b : Word} (h : device s.params b ≠ .io) (f : Half)
    (d : Vector DmaChannel 4) : peekByte { s with iflag := f, dma := d } b = peekByte s b := by
  simp only [peekByte]
  cases hd : device s.params b
  case io => exact absurd hd h
  all_goals rfl

theorem byteOf_peek (s : State) (w : Width) (a : Word) {i : Nat} (hi : i < w.size) :
    byteOf (peek s w a) i = peekByte s (a + BitVec.ofNat 32 i) := by
  rw [peek_eq_fromBytes, byteOf_fromBytes _ hi w.size_le]

/-- What a unit of channel `x` leaves in `m`: the unit at `src` is at `dst` too, no other byte of storage changes, and
beside work RAM and the accounting the channel and the interrupt flags alone (R467, R468). -/
structure UnitMoved (s m : State) (x : Fin 4) (w : Width) (src dst : Word) : Prop where
  bytes : ∀ i, i < w.size → peekByte m (dst + BitVec.ofNat 32 i) = peekByte s (src + BitVec.ofNat 32 i)
  others : ∀ b, (∀ i, i < w.size → place s.params b ≠ place s.params (dst + BitVec.ofNat 32 i)) →
    device s.params b ≠ .io → peekByte m b = peekByte s b
  rest :
    let c := dmaStep w.size s.dma[x]
    m =
      { s with
        ewram := m.ewram
        iwram := m.iwram
        tally := m.tally
        lastCost := m.lastCost
        seqNext := m.seqNext
        iflag := if c.cntLatch = 0 ∧ c.irq = true then s.iflag ||| 1#16 <<< (8 + x.val) else s.iflag
        dma := s.dma.set x (if c.cntLatch = 0 then c.completed x else c) }

/-- A unit from storage of the core to work RAM: the read, the write and the end of the unit (R467). -/
theorem dmaUnit_moved {s : State} (hm : s.MemoriesOk) {x : Fin 4} :
    let c := s.dma[x]
    let src := dmaAlign c c.srcLatch
    let dst := dmaAlign c c.dstLatch
    plainAccess s (dmaWidth c) src = true → isRam s.params dst →
    UnitMoved s (dmaUnit x s) x (dmaWidth c) src dst := by
  intro c src dst plain ram
  have aligned : dst.toNat % (dmaWidth c).size = 0 := dmaAlign_mod ..
  have accessed : (s.accessed (dmaWidth c) src).MemoriesOk := ⟨hm.1, hm.2, hm.3, hm.4, hm.5, hm.6⟩
  have unit : dmaUnit x s = dmaAdvance (dmaWidth c).size x
      (memWrite (dmaWidth c) dst (peek s (dmaWidth c) src) (s.accessed (dmaWidth c) src)) := by
    rw [dmaUnit, memRead_of_plain plain]
  have frame := memWrite_ram_frame (w := dmaWidth c) (s := s.accessed (dmaWidth c) src) ram (peek s (dmaWidth c) src)
  have same := @peekByte_memWrite_same _ accessed _ dst aligned ram (peek s (dmaWidth c) src)
  have other := @peekByte_memWrite_other _ accessed _ dst aligned ram (peek s (dmaWidth c) src)
  generalize memWrite _ dst _ _ = t at unit frame same other
  have params : t.params = s.params := (congrArg State.params frame :)
  have channel : t.dma[x] = c := (congrArg (fun t : State => t.dma[x]) frame :)
  rw [dmaAdvance_eq, channel] at unit
  refine ⟨fun i hi => ?_, fun b away notIo => ?_, ?_⟩
  · have lane := device_add_lane aligned (.inr (ram.elim .inl (.inr ∘ .inl))) hi
    have inRam : device t.params (dst + BitVec.ofNat 32 i) ≠ .io := by
      rw [params, lane]
      rcases ram with h | h <;> simp [h]
    rw [unit, peekByte_of_not_io inRam, same hi rfl, byteOf_peek s _ src hi]
  · rw [unit, peekByte_of_not_io (params ▸ notIo), other away]
    rfl
  · rw [unit, frame]
    rfl

/-- Settles O13: a unit of the channel by `dmaUnit_moved`; the invariant gives the channel a unit to move, and the
channel's own end is read off its counts. -/
theorem dmaMovesOneUnit : Obligations.DmaMovesOneUnit := by
  intro s x inv fatal present running lower c w u src dst plain _ ram
  have start : (s.withTally 0).MemoriesOk := ⟨inv.memories.1, inv.memories.2, inv.memories.3, inv.memories.4,
    inv.memories.5, inv.memories.6⟩
  have source : dmaAlign c c.srcLatch = src := dmaAlign_eq ..
  have target : dmaAlign c c.dstLatch = dst := dmaAlign_eq ..
  have moved : UnitMoved (s.withTally 0) (dmaUnit x (s.withTally 0)) x w src dst := by
    have unit := dmaUnit_moved start (x := x)
    simp only [State.withTally_dma, show s.dma[x] = c from rfl, source, target] at unit
    exact unit plain ram
  obtain ⟨bytes, others, rest⟩ := moved
  have kept {α : Type} (field : State → α) := congrArg field rest
  have latched : 1 ≤ c.cntLatch := (DmaChannel.ok_iff.mp (inv.registers.dma x)).2.2 (.inl running)
  refine ⟨dmaUnit x (s.withTally 0), step_of_running fatal present ((runningChannel_eq_some_iff s x).mpr ⟨running, lower⟩),
    bytes, others, kept State.gpr, kept State.pc, kept State.cpsr, ⟨kept State.spsr, kept State.spsrValid⟩,
    kept State.halted, kept State.diag, kept State.ie, kept State.ime, kept State.waitcnt, kept State.postflg,
    kept State.timers, fun y hy => ?_, ?_⟩
  · refine (kept fun m => m.dma[y]).trans ?_
    exact Vector.getElem_set_ne x.isLt y.isLt fun e => hy (Fin.ext e.symm)
  · intro p q
    have srcNext : stepPointer c.srcLatch u c.srcStep false = p := by
      have step : c.srcStep = 0 ∨ c.srcStep = 1 ∨ c.srcStep = 2 ∨ c.srcStep = 3 := by
        have : c.srcStep < 4 := BitVec.isLt _
        omega
      rcases step with e | e | e | e <;> simp [stepPointer, p, e]
    have dstNext : stepPointer c.dstLatch u c.dstStep true = q := by
      have step : c.dstStep = 0 ∨ c.dstStep = 1 ∨ c.dstStep = 2 ∨ c.dstStep = 3 := by
        have : c.dstStep < 4 := BitVec.isLt _
        omega
      rcases step with e | e | e | e <;> simp [stepPointer, q, e]
    have next : dmaStep w.size (s.withTally 0).dma[x] =
        { c with srcLatch := p, dstLatch := q, cntLatch := c.cntLatch - 1 } := by
      rw [← srcNext, ← dstNext]
      rfl
    have flags := kept State.iflag
    have channel := (kept fun m => m.dma[x]).trans (Vector.getElem_set_self x.isLt)
    simp only [next] at flags channel
    refine ⟨fun more => ?_, fun last => ?_⟩
    · have left : c.cntLatch - 1 ≠ 0 := by omega
      rw [if_neg left] at channel
      rw [if_neg fun h => left h.1] at flags
      exact ⟨channel, flags⟩
    · have none : c.cntLatch - 1 = 0 := by omega
      simp only [none, if_true, true_and] at flags channel
      exact ⟨flags, channel.trans (DmaChannel.completed_eq ..)⟩

end Sys2Proof.Machine

/-! PROOFS. What an instruction leaves of memory and of the devices (`40_common_execute.md`, R61): an instruction that
stores nothing holds all of it; one that stores changes the bytes it stores to, followed as a set of addresses through
the parts of an access and the words of a block. -/

namespace Sys2Proof.Machine

/-! ### What memory and the devices hold -/

/-- What the bytes outside the register cells read from. -/
structure Storage where
  params : Config.Params
  bios : Memory
  ewram : Memory
  iwram : Memory
  rom : Memory
  extMem : Memory

def State.storage (s : State) : Storage := ⟨s.params, s.bios, s.ewram, s.iwram, s.rom, s.extMem⟩

/-- The control registers, the timers, the DMA channels and the halt. -/
structure Devices where
  ie : Half
  iflag : Half
  waitcnt : Half
  ime : Word
  postflg : Byte
  timers : Vector Timer 4
  dma : Vector DmaChannel 4
  halted : Bool

def State.devices (s : State) : Devices :=
  ⟨s.ie, s.iflag, s.waitcnt, s.ime, s.postflg, s.timers, s.dma, s.halted⟩

theorem devicesKept_iff {s t : State} : devicesKept s t ↔ t.devices = s.devices := by
  simp only [devicesKept, State.devices, Devices.mk.injEq]

/-- All that memory and the devices hold: the rest of the state is registers, status, log and accounting. -/
def State.held (s : State) : Storage × Devices := (s.storage, s.devices)

theorem storage_of_held {s t : State} (h : t.held = s.held) : t.storage = s.storage := congrArg Prod.fst h

theorem devices_of_held {s t : State} (h : t.held = s.held) : t.devices = s.devices := congrArg Prod.snd h

/-- A byte that no register cell and no foreign device answers reads from storage. -/
theorem peekByte_of_storage {s t : State} (h : t.storage = s.storage) {b : Word} (plain : isForeign s.params b = false)
    (notIo : device s.params b ≠ .io) : peekByte t b = peekByte s b := by
  simp only [State.storage, Storage.mk.injEq] at h
  obtain ⟨params, bios, ewram, iwram, rom, extMem⟩ := h
  unfold peekByte
  rw [params]
  cases hd : device s.params b with
  | io => exact absurd hd notIo
  | ext d =>
    have kind : d.kind = .storage := by
      cases k : d.kind
      · rfl
      · simp [isForeign, hd, k] at plain
    simp only [extByte, kind, extMem]
  | _ => simp only [bios, ewram, iwram, cartByte, rom, params]

theorem onRead_of_devices {s t : State} (h : t.devices = s.devices) (cell : Cell) : cell.onRead t = cell.onRead s := by
  obtain ⟨ie, iflag, waitcnt, ime, postflg, timers, dma, -⟩ := devicesKept_iff.mpr h
  cases cell <;> simp only [Cell.onRead, ie, iflag, waitcnt, ime, postflg, timers, dma]

/-- Every byte that no foreign device answers reads from what is held. -/
theorem peekByte_of_held {s t : State} (h : t.held = s.held) {b : Word} (plain : isForeign s.params b = false) :
    peekByte t b = peekByte s b := by
  have params : t.params = s.params := congrArg Storage.params (storage_of_held h)
  by_cases io : device s.params b = .io
  · unfold peekByte
    rw [params, io]
    cases cellAt s.params b.toNat <;> simp only [onRead_of_devices (devices_of_held h)]
  · exact peekByte_of_storage (storage_of_held h) plain io

theorem memoriesOk_of_storage {s t : State} (h : t.storage = s.storage) (hm : s.MemoriesOk) : t.MemoriesOk := by
  simp only [State.storage, Storage.mk.injEq] at h
  obtain ⟨params, bios, ewram, iwram, rom, extMem⟩ := h
  obtain ⟨h1, h2, h3, h4, h5, h6⟩ := hm
  exact ⟨bios ▸ h1, ewram ▸ h2, iwram ▸ h3, by rwa [rom, params], extMem ▸ h5, params ▸ h6⟩

/-! ### Operations that hold everything -/

section Held

variable (s : State)

@[simp] theorem withGpr_held (i : Fin 30) (v : Word) : (s.withGpr i v).held = s.held := rfl
@[simp] theorem withCpsr_held (v : Word) : (s.withCpsr v).held = s.held := rfl
@[simp] theorem withSpsr_held (m : Fin 5) (v : Word) : (s.withSpsr m v).held = s.held := rfl
@[simp] theorem withSpsrValid_held (m : Fin 5) (b : Bool) : (s.withSpsrValid m b).held = s.held := rfl
@[simp] theorem withFatal_held (r : Option DecodeFailure) : (s.withFatal r).held = s.held := rfl
@[simp] theorem charge_held (n : Nat) : (s.charge n).held = s.held := rfl
@[simp] theorem log_held (e : DiagEvent) : (s.log e).held = s.held := rfl
@[simp] theorem account_held (a : Word) (n c : Nat) : (account a n c s).held = s.held := rfl
@[simp] theorem writePc_held (t : Word) : (writePc t s).held = s.held := rfl
@[simp] theorem advanceArm_held : (advanceArm s).held = s.held := rfl
@[simp] theorem advanceThumb_held : (advanceThumb s).held = s.held := rfl

@[simp] theorem logIf_held (b : Bool) (e : DiagEvent) : (s.logIf b e).held = s.held := by cases b <;> rfl

@[simp] theorem setBankReg_held (n : Reg) (m : Mode) (v : Word) : (s.setBankReg n m v).held = s.held := by
  unfold State.setBankReg
  split <;> rfl

@[simp] theorem setReg_held (n : Reg) (v : Word) : (s.setReg n v).held = s.held := setBankReg_held ..

@[simp] theorem setLoReg_held (n : LoReg) (v : Word) : (s.setLoReg n v).held = s.held := setReg_held ..

@[simp] theorem writeArm_held (rd : Reg) (v : Word) : (writeArm rd v s).held = s.held := by
  unfold writeArm
  split <;> simp

@[simp] theorem writeThumb_held (rd : Reg) (v : Word) : (writeThumb rd v s).held = s.held := by
  unfold writeThumb
  split <;> simp

@[simp] theorem writeLong_held (rd : Reg) (v : Word) : (writeLong rd v s).held = s.held := by
  unfold writeLong
  split <;> simp

@[simp] theorem writeBack_held (rn : Reg) (v : Word) (wb : Bool) : (writeBack rn v wb s).held = s.held := by
  unfold writeBack
  split
  · split <;> simp
  · rfl

@[simp] theorem writeCpsr_held (new mask : Word) (fromMsr : Bool) : (writeCpsr new mask fromMsr s).held = s.held := by
  unfold writeCpsr
  split <;> rfl

@[simp] theorem restoreCpsr_held : (restoreCpsr s).held = s.held := by
  unfold restoreCpsr
  split <;> simp

@[simp] theorem readStatus_held (p : StatusWord) : (readStatus p s).2.held = s.held := by
  unfold readStatus
  split
  · rfl
  · split <;> simp

@[simp] theorem msrWrite_held (p : StatusWord) (fsxc : BitVec 4) (operand : Word) :
    (msrWrite p fsxc operand s).held = s.held := by
  unfold msrWrite
  split
  · simp
  · split <;> simp

theorem enterException_held {kind : ExceptionKind} (hk : kind ≠ .reset) : (enterException kind s).held = s.held := by
  cases kind
  case reset => exact absurd rfl hk
  all_goals simp [enterException]

@[simp] theorem illegal_held (tag : Tag) : (illegal tag s).held = s.held := by
  unfold illegal
  split
  · rfl
  · exact enterException_held s (by decide)

@[simp] theorem branchExchange_held (t : Word) : (branchExchange t s).held = s.held := rfl

@[simp] theorem skip_held (c : Cond) : (skip c s).held = s.held := by simp [skip]

theorem Looked.held {s t : State} (h : Looked s t) : t.held = s.held := by
  rw [h.same]
  rfl

/-! ### Instructions that store nothing -/

@[simp] theorem finishDp_held (sf : Bool) (rd : Reg) (r flags : Word) : (finishDp sf rd r flags s).held = s.held := by
  unfold finishDp
  cases sf <;> split <;> simp

@[simp] theorem multiplyEffect_held (sf : Bool) (rd rs rm : Reg) (acc : State → Word) (extra : Nat) (usesPc : Bool) :
    (multiplyEffect sf rd rs rm acc extra usesPc s).held = s.held := by
  cases sf <;> simp [multiplyEffect]

@[simp] theorem multiplyLongEffect_held (signed acc sf : Bool) (rdHi rdLo rs rm : Reg) :
    (multiplyLongEffect signed acc sf rdHi rdLo rs rm s).held = s.held := by
  unfold multiplyLongEffect
  cases sf <;> dsimp only <;> split <;> simp

theorem loadEffect_held {load : Word → State → Word × State} (hl : ∀ a t, Looked t (load a t).2) (ad : Addressed)
    (rn rd : Reg) (toPc : Option Reason) : (loadEffect load ad rn rd toPc s).held = s.held := by
  cases toPc <;> simp [loadEffect, (hl _ _).held]

theorem loadBlock_held (bank : Mode) (regs : List Reg) (a : Word) (newPc : Option Word) :
    (loadBlock bank regs a s newPc).1.held = s.held := by
  induction regs generalizing a s newPc with
  | nil => rfl
  | cons r rest ih =>
    have loaded := (memRead_looked .word (alignWord a) s).held
    simp only [loadBlock]
    split
    · exact (ih ..).trans loaded
    · exact (ih ..).trans ((setBankReg_held ..).trans loaded)

@[simp] theorem blockWriteBack_held (w : Bool) (rn : Reg) (final : Word) :
    (blockWriteBack w rn final s).held = s.held := by
  unfold blockWriteBack
  split <;> simp

@[simp] theorem blockEvents_held (user w : Bool) (rn : Reg) : (blockEvents user w rn s).held = s.held := by
  simp [blockEvents]

theorem ldmEffect_held (mode : BlockMode) (sbit w : Bool) (rn : Reg) (list : BitVec 16) :
    (ldmEffect mode sbit w rn list s).held = s.held := by
  simp only [ldmEffect]
  split
  · cases sbit <;> simp [loadBlock_held]
  · simp [loadBlock_held]

@[simp] theorem thumbLogical_held (rd : Option LoReg) (r : Word) (sc : Bool) : (thumbLogical rd r sc s).held = s.held := by
  cases rd <;> simp [thumbLogical]

@[simp] theorem thumbArithmetic_held (rd : Option LoReg) (r : Sum) : (thumbArithmetic rd r s).held = s.held := by
  cases rd <;> simp [thumbArithmetic]

theorem thumbLoad_held {load : Word → State → Word × State} (hl : ∀ a t, Looked t (load a t).2) (a : Word) (rd : LoReg) :
    (thumbLoad load a rd s).held = s.held := by
  simp [thumbLoad, (hl _ _).held]

theorem thumbLoadMultiple_held (regs : List Reg) (start : Word) (base : Reg) (final : Word) :
    (thumbLoadMultiple regs start base final s).held = s.held := by
  simp only [thumbLoadMultiple]
  split <;> simp [loadBlock_held]

end Held

theorem gated_held {c : Cond} {effect : State → State} {s t : State} (h : gated c effect s = .next t)
    (he : (effect s).held = s.held) : t.held = s.held := by
  cases h
  split
  · exact he
  · exact skip_held s c

theorem next_held {s t u : State} (h : (.next u : Host.Outcome State Fault Refusal) = .next t) (hu : u.held = s.held) :
    t.held = s.held := by
  cases h
  exact hu

/-- An instruction that stores nothing holds memory and the devices. -/
theorem exec_held {i : Instr} {s t : State} (stores : storeRange s i = none) (h : exec i s = .next t) :
    t.held = s.held := by
  cases i <;> cases stores <;> dsimp only [exec] at h
  case armAnd | armEor | armOrr | armBic => exact gated_held h (by simp [logicalDp])
  case armSub | armRsb | armAdd | armAdc | armSbc | armRsc => exact gated_held h (by simp [arithmeticDp])
  case armMov | armMvn => exact gated_held h (by simp [moveDp])
  case armTst | armTeq => exact gated_held h (by simp [logicalTest])
  case armCmp | armCmn => exact gated_held h (by simp [arithmeticTest])
  case armMul | armMla => exact gated_held h (multiplyEffect_held ..)
  case armUmull | armUmlal | armSmull | armSmlal => exact gated_held h (multiplyLongEffect_held ..)
  case armMrs | armMrsBit25 => exact gated_held h (by simp [mrsEffect])
  case armMsrReg | armMsrImm => exact gated_held h (by simp)
  case armLdr | armLdrt => exact gated_held h (loadEffect_held _ loadWord_looked ..)
  case armLdrb | armLdrbt => exact gated_held h (loadEffect_held _ loadByte_looked ..)
  case armLdrh => exact gated_held h (loadEffect_held _ loadHalf_looked ..)
  case armLdrsb => exact gated_held h (loadEffect_held _ loadSignedByte_looked ..)
  case armLdrsh => exact gated_held h (loadEffect_held _ loadSignedHalf_looked ..)
  case armLdm => exact gated_held h (ldmEffect_held ..)
  case armB | armBl | armBx => exact gated_held h (by simp)
  case armSwi => exact gated_held h (enterException_held _ (by decide))
  case armBkpt | armUndMulSwap | armUndLdrdStrd | armUnd | armLdc | armStc | armCdp | armMrc | armMcr =>
    exact gated_held h (illegal_held ..)
  case thumbUndCond | thumbBkpt | thumbUnd1011 | thumbUndBlxReg | thumbUndBlxSuffix => exact next_held h (illegal_held ..)
  case thumbSwi => exact next_held h (enterException_held _ (by decide))
  case thumbBCond => exact next_held h (by split <;> simp)
  case thumbB | thumbBlFirst | thumbBlSecond | thumbBx | thumbAddSpImm | thumbAddSpNegImm | thumbAddPc | thumbAddSp =>
    exact next_held h (by simp)
  case thumbAddReg | thumbSubReg | thumbAddImm3 | thumbSubImm3 | thumbCmpImm | thumbAddImm8 | thumbSubImm8 | thumbAdc |
      thumbSbc | thumbNeg | thumbCmpReg | thumbCmn => exact next_held h (thumbArithmetic_held ..)
  case thumbLslImm | thumbLsrImm | thumbAsrImm => exact next_held h (by simp [thumbShiftImm])
  case thumbMovImm | thumbAnd | thumbEor | thumbTst | thumbOrr | thumbBic | thumbMvn =>
    exact next_held h (thumbLogical_held ..)
  case thumbMul => exact next_held h (by simp)
  case thumbLslReg | thumbLsrReg | thumbAsrReg | thumbRorReg => exact next_held h (by simp [thumbShiftReg])
  case thumbAddHigh | thumbMovHigh | thumbCmpHigh => exact next_held h (by simp [format5Event])
  case thumbLdrPc => exact next_held h (thumbLoad_held _ (memRead_looked .word) ..)
  case thumbLdrReg | thumbLdrImm | thumbLdrSp => exact next_held h (thumbLoad_held _ loadWord_looked ..)
  case thumbLdrbReg | thumbLdrbImm => exact next_held h (thumbLoad_held _ loadByte_looked ..)
  case thumbLdrhReg | thumbLdrhImm => exact next_held h (thumbLoad_held _ loadHalf_looked ..)
  case thumbLdsbReg => exact next_held h (thumbLoad_held _ loadSignedByte_looked ..)
  case thumbLdshReg => exact next_held h (thumbLoad_held _ loadSignedHalf_looked ..)
  case thumbPop | thumbLdmia => exact next_held h (thumbLoadMultiple_held ..)

/-- Settles O51: what is held answers every byte and is the devices. -/
theorem nonStoringForms : Obligations.NonStoringForms := fun _ _ _ stores h =>
  have kept := exec_held stores h
  ⟨fun _ plain => peekByte_of_held kept plain, devicesKept_iff.mpr (devices_of_held kept)⟩

/-! ### Stores to a set of addresses -/

/-- A byte that a store to the addresses `bytes` cannot reach: no mirror of one of them, no register cell when one of
them is a register cell, and not of a foreign device. -/
structure Unreached (p : Config.Params) (bytes : Word → Prop) (b : Word) : Prop where
  plain : isForeign p b = false
  apart : ∀ x, bytes x → place p b ≠ place p x
  notIo : (∃ x, bytes x ∧ device p x = .io) → device p b ≠ .io

/-- What stores to the addresses `bytes` leave: the bytes they do not reach, and the devices when no register cell is
among the addresses. -/
structure StoredAt (bytes : Word → Prop) (s t : State) : Prop where
  params : t.params = s.params
  memories : s.MemoriesOk → t.MemoriesOk
  memory : s.MemoriesOk → ∀ b, Unreached s.params bytes b → peekByte t b = peekByte s b
  devices : (∀ x, bytes x → device s.params x ≠ .io) → t.devices = s.devices

section StoredAt

variable {bytes more : Word → Prop} {s t u : State}

theorem StoredAt.of_held (h : t.held = s.held) : StoredAt bytes s t where
  params := congrArg Storage.params (storage_of_held h)
  memories := memoriesOk_of_storage (storage_of_held h)
  memory _ _ hb := peekByte_of_held h hb.plain
  devices _ := devices_of_held h

theorem StoredAt.trans (h : StoredAt bytes s t) (k : StoredAt bytes t u) : StoredAt bytes s u where
  params := k.params.trans h.params
  memories := k.memories ∘ h.memories
  memory hm b hb := (k.memory (h.memories hm) b (h.params ▸ hb)).trans (h.memory hm b hb)
  devices hd := (k.devices (h.params ▸ hd)).trans (h.devices hd)

theorem StoredAt.mono (h : StoredAt bytes s t) (sub : ∀ x, bytes x → more x) : StoredAt more s t where
  params := h.params
  memories := h.memories
  memory hm b hb := h.memory hm b ⟨hb.plain, fun x hx => hb.apart x (sub x hx), fun ⟨x, hx, io⟩ => hb.notIo ⟨x, sub x hx, io⟩⟩
  devices hd := h.devices fun x hx => hd x (sub x hx)

end StoredAt

/-- The `n` addresses from `a` up. -/
def bytesFrom (a : Word) (n : Nat) : Word → Prop := fun x => ∃ i, i < n ∧ x = a + BitVec.ofNat 32 i

theorem bytesFrom_low (a : Word) (m n : Nat) (x : Word) (h : bytesFrom a m x) : bytesFrom a (m + n) x := by
  obtain ⟨i, hi, rfl⟩ := h
  exact ⟨i, by omega, rfl⟩

theorem bytesFrom_high (a : Word) (m n : Nat) (x : Word) (h : bytesFrom (a + BitVec.ofNat 32 m) n x) :
    bytesFrom a (m + n) x := by
  obtain ⟨i, hi, rfl⟩ := h
  exact ⟨m + i, by omega, by rw [BitVec.add_assoc, ← BitVec.ofNat_add]⟩

/-- A store in two parts, one after the other. -/
theorem StoredAt.append {a : Word} {m n : Nat} {s t u : State} (low : StoredAt (bytesFrom a m) s t)
    (high : StoredAt (bytesFrom (a + BitVec.ofNat 32 m) n) t u) : StoredAt (bytesFrom a (m + n)) s u :=
  (low.mono (bytesFrom_low a m n)).trans (high.mono (bytesFrom_high a m n))

/-! ### One bus write -/

/-- A write to external storage changes its own bytes alone (R69, R71). -/
theorem withExtMem_storedAt (s : State) (a v : Word) (n : Nat) :
    StoredAt (bytesFrom a n) s
      (s.withExtMem (s.extMem.setBytes (fun i => (a + BitVec.ofNat 32 i).toNat) (fun i => byteOf v i) n)) where
  params := rfl
  memories hm := ⟨hm.1, hm.2, hm.3, hm.4, Memory.wf_setBytes hm.5 _ _ _, hm.6⟩
  devices _ := rfl
  memory hm b hb := by
    have kept : (s.extMem.setBytes (fun i => (a + BitVec.ofNat 32 i).toNat) (fun i => byteOf v i) n).get b.toNat =
        s.extMem.get b.toNat := Memory.get_setBytes_other hm.extMem _ _ _ _ fun i hi e =>
      hb.apart _ ⟨i, hi, rfl⟩ (congrArg _ (BitVec.eq_of_toNat_eq e).symm)
    simp only [peekByte, State.withExtMem_params]
    cases device s.params b with
    | ext d => cases kind : d.kind <;> simp only [extByte, kind, State.withExtMem_extMem, kept, State.withExtMem_extCount]
    | _ => rfl

theorem extWrite_storedAt (d : Config.ExtDevice) (w : Width) (a v : Word) (s : State) :
    StoredAt (bytesFrom a w.size) s (extWrite d w a v s) := by
  have accounted : StoredAt (bytesFrom a w.size) s (account a w.size (extCost s.waitcnt d.cost a w true) s) :=
    .of_held (account_held ..)
  simp only [extWrite]
  split
  · exact accounted.trans (withExtMem_storedAt (account ..) a v w.size)
  · exact accounted

theorem unmappedWrite8_storedAt (bytes : Word → Prop) (a : Word) (s : State) : StoredAt bytes s (unmappedWrite8 a s) :=
  .of_held ((account_held ..).trans (log_held ..))

theorem outerWrite8_storedAt (a v : Word) (s : State) : StoredAt (bytesFrom a 1) s (outerWrite8 a v s) := by
  unfold outerWrite8
  split
  · split
    · exact extWrite_storedAt _ .byte a v s
    · exact unmappedWrite8_storedAt ..
  · exact unmappedWrite8_storedAt ..

theorem ioOuterWrites_storedAt (a v : Word) (n : Nat) (s : State) :
    StoredAt (bytesFrom a n) s (ioOuterWrites a v n s) := by
  induction n with
  | zero => exact .of_held rfl
  | succ n ih =>
    simp only [ioOuterWrites]
    split
    · exact ih.mono (bytesFrom_low a n 1)
    · exact ih.append (outerWrite8_storedAt ..)

theorem onWrite_storage (cell : Cell) (v m : Word) (s : State) : (cell.onWrite v m s).storage = s.storage := by
  cases cell <;> rfl

theorem writeCells_storage (a n : Nat) (v : Word) (cells : List Cell) (s : State) :
    (writeCells a n v cells s).storage = s.storage := by
  induction cells generalizing s with
  | nil => rfl
  | cons cell rest ih =>
    rw [writeCells, ih]
    split
    · exact onWrite_storage ..
    · rfl

/-- The write hooks may change what every register cell reads, and nothing else (R92, R93). -/
theorem StoredAt.of_storage {bytes : Word → Prop} {s t : State} (h : t.storage = s.storage) {x : Word} (hx : bytes x)
    (io : device s.params x = .io) : StoredAt bytes s t where
  params := congrArg Storage.params h
  memories := memoriesOk_of_storage h
  memory _ _ hb := peekByte_of_storage h hb.plain (hb.notIo ⟨x, hx, io⟩)
  devices hd := absurd io (hd x hx)

theorem bytesFrom_first (w : Width) (a : Word) : bytesFrom a w.size a :=
  ⟨0, by cases w <;> decide, (BitVec.add_zero a).symm⟩

theorem ioWrite_storedAt {s : State} {a : Word} (io : device s.params a = .io) (w : Width) (v : Word) :
    StoredAt (bytesFrom a w.size) s (ioWrite w a v s) :=
  (StoredAt.of_storage ((writeCells_storage ..).trans (storage_of_held (account_held ..))) (bytesFrom_first w a) io).trans
    (ioOuterWrites_storedAt ..)

/-- An aligned write to work RAM (R76, R77). -/
theorem ramWrite_storedAt {s : State} {w : Width} {a : Word} (aligned : a.toNat % w.size = 0) (ram : isRam s.params a)
    (v : Word) : StoredAt (bytesFrom a w.size) s (memWrite w a v s) where
  params := (memWrite_onBus ..).params
  memories := (memWrite_onBus ..).ran.memories
  devices _ := by
    rw [memWrite_ram_frame ram]
    rfl
  memory hm _ hb := peekByte_memWrite_other hm aligned ram v fun i hi => hb.apart _ ⟨i, hi, rfl⟩

/-- An aligned write that a device supports (R88). -/
theorem nativeWrite_storedAt {s t : State} {w : Width} {a v : Word} (aligned : a.toNat % w.size = 0)
    (h : nativeWrite w a v s = some t) : StoredAt (bytesFrom a w.size) s t := by
  have written := memWrite_of_native h
  cases hd : device s.params a with
  | ewram => exact written ▸ ramWrite_storedAt aligned (.inl hd) v
  | iwram => exact written ▸ ramWrite_storedAt aligned (.inr hd) v
  | bios | cart =>
    simp only [nativeWrite, hd, Option.some.injEq] at h
    exact h ▸ .of_held (account_held ..)
  | io =>
    simp only [nativeWrite, hd, Option.some.injEq] at h
    exact h ▸ ioWrite_storedAt hd w v
  | ext d =>
    simp only [nativeWrite, hd] at h
    split at h
    · cases h
      exact extWrite_storedAt ..
    · cases h
  | none =>
    simp only [nativeWrite, hd] at h
    cases h

theorem write8_storedAt (a v : Word) (s : State) : StoredAt (bytesFrom a 1) s (write8 a v s) := by
  unfold write8
  cases h : nativeWrite .byte a v s with
  | none => exact unmappedWrite8_storedAt ..
  | some t => exact nativeWrite_storedAt (Nat.mod_one _) h

theorem write16_storedAt {a : Word} (aligned : a.toNat % 2 = 0) (v : Word) (s : State) :
    StoredAt (bytesFrom a 2) s (write16 a v s) := by
  unfold write16
  split
  · exact nativeWrite_storedAt aligned ‹_›
  · exact (write8_storedAt ..).append (n := 1) (write8_storedAt ..)

theorem write32_storedAt {a : Word} (aligned : a.toNat % 4 = 0) (v : Word) (s : State) :
    StoredAt (bytesFrom a 4) s (write32 a v s) := by
  have high : (a + 2).toNat % 2 = 0 := by
    rw [BitVec.toNat_add, show (2 : Word).toNat = 2 from rfl]
    omega
  unfold write32
  split
  · exact nativeWrite_storedAt aligned ‹_›
  · exact (write16_storedAt (by omega) ..).append (n := 2) (write16_storedAt high ..)

/-! ### The stores of instructions -/

theorem storeByte_storedAt (a v : Word) (s : State) : StoredAt (bytesFrom a 1) s (storeByte a v s) := write8_storedAt ..

theorem storeHalf_storedAt (a v : Word) (s : State) : StoredAt (bytesFrom (alignHalf a) 2) s (storeHalf a v s) :=
  write16_storedAt (by rw [alignHalf_toNat]; omega) ..

theorem storeWord_storedAt (a v : Word) (s : State) : StoredAt (bytesFrom (alignWord a) 4) s (storeWord a v s) :=
  write32_storedAt (by rw [alignWord_toNat]; omega) ..

theorem storeBlock_storedAt (value : Nat → Reg → Word) (k : Nat) (regs : List Reg) (a : Word) (s : State) :
    StoredAt (bytesFrom (alignWord a) (4 * regs.length)) s (storeBlock value k regs a s) := by
  induction regs generalizing k a s with
  | nil => exact .of_held rfl
  | cons r rest ih =>
    have next : alignWord (a + 4) = alignWord a + BitVec.ofNat 32 4 := by
      have := wordAt_add_four a 0
      simpa only [wordAt_zero, BitVec.add_zero] using this
    have later := next ▸ ih (k + 1) (a + 4) (storeWord a (value k r) s)
    rw [List.length_cons, Nat.mul_succ, Nat.add_comm]
    exact (storeWord_storedAt a (value k r) s).append later

section Effects

variable {bytes : Word → Prop} {s t : State}

theorem storeEffect_storedAt {store : Word → Word → State → State} {ad : Addressed}
    (hs : ∀ v t, StoredAt bytes t (store ad.addr v t)) (rn rd : Reg) :
    StoredAt bytes s (storeEffect store ad rn rd s) :=
  (StoredAt.of_held (logIf_held ..)).trans ((hs _ _).trans (.of_held ((advanceArm_held _).trans (writeBack_held ..))))

theorem swapEffect_storedAt {load : Word → State → Word × State} {store : Word → Word → State → State} {rn : Reg}
    (hl : ∀ a t, Looked t (load a t).2) (hs : ∀ v t, StoredAt bytes t (store (s.armReg rn) v t)) (rd rm : Reg) :
    StoredAt bytes s (swapEffect load store rn rd rm s) :=
  (StoredAt.of_held ((hl _ _).held.trans (logIf_held ..))).trans
    ((hs _ _).trans (.of_held ((writeArm_held ..).trans (charge_held ..))))

theorem stmEffect_storedAt (mode : BlockMode) (sbit w : Bool) (rn : Reg) (list : BitVec 16) :
    let plan := blockPlan mode list (s.armReg rn)
    StoredAt (bytesFrom (alignWord plan.start) (4 * plan.regs.length)) s (stmEffect mode sbit w rn list s) :=
  (StoredAt.of_held (blockEvents_held ..)).trans
    ((storeBlock_storedAt ..).trans (.of_held ((advanceArm_held _).trans (blockWriteBack_held ..))))

theorem thumbStore_storedAt {store : Word → Word → State → State} {a : Word}
    (hs : ∀ v t, StoredAt bytes t (store a v t)) (rd : LoReg) : StoredAt bytes s (thumbStore store a rd s) :=
  (hs _ _).trans (.of_held (advanceThumb_held _))

theorem thumbStoreMultiple_storedAt (value : Nat → Reg → Word) (regs : List Reg) (start : Word) (base : Reg)
    (final : Word) :
    StoredAt (bytesFrom (alignWord start) (if regs = [] then 4 else 4 * regs.length)) s
      (thumbStoreMultiple value regs start base final s) := by
  refine StoredAt.trans ?_ (.of_held ((advanceThumb_held _).trans (setReg_held ..)))
  split
  · exact storeWord_storedAt ..
  · exact storeBlock_storedAt ..

theorem StoredAt.of_gated {c : Cond} {effect : State → State} (run : gated c effect s = .next t)
    (h : StoredAt bytes s (effect s)) : StoredAt bytes s t := by
  cases run
  split
  · exact h
  · exact .of_held (skip_held s c)

theorem StoredAt.next {u : State} (h : StoredAt bytes s u)
    (run : (.next u : Host.Outcome State Fault Refusal) = .next t) : StoredAt bytes s t := by
  cases run
  exact h

end Effects

/-- An instruction that stores, stores to the addresses of its form. -/
theorem exec_storedAt {i : Instr} {s t : State} {a : Word} {n : Nat} (stores : storeRange s i = some (a, n))
    (h : exec i s = .next t) : StoredAt (bytesFrom a n) s t := by
  cases i <;> cases stores <;> dsimp only [exec] at h
  case armStr | armStrt => exact .of_gated h (storeEffect_storedAt (storeWord_storedAt _) ..)
  case armStrb | armStrbt => exact .of_gated h (storeEffect_storedAt (storeByte_storedAt _) ..)
  case armStrh => exact .of_gated h (storeEffect_storedAt (storeHalf_storedAt _) ..)
  case armSwp => exact .of_gated h (swapEffect_storedAt loadWord_looked (storeWord_storedAt _) ..)
  case armSwpb => exact .of_gated h (swapEffect_storedAt loadByte_looked (storeByte_storedAt _) ..)
  case armStm => exact .of_gated h (stmEffect_storedAt ..)
  case thumbStrReg | thumbStrImm | thumbStrSp => exact (thumbStore_storedAt (storeWord_storedAt _) _).next h
  case thumbStrbReg | thumbStrbImm => exact (thumbStore_storedAt (storeByte_storedAt _) _).next h
  case thumbStrhReg | thumbStrhImm => exact (thumbStore_storedAt (storeHalf_storedAt _) _).next h
  case thumbPush | thumbStmia => exact (thumbStoreMultiple_storedAt ..).next h

/-- Settles O52: `exec_storedAt`, with the addresses of the form counted from its first. -/
theorem storingForms : Obligations.StoringForms := by
  intro i s t a n hm stores h
  have stored := exec_storedAt stores h
  refine ⟨fun b plain apart notIo => stored.memory hm b ⟨plain, ?_, ?_⟩, fun hd => devicesKept_iff.mpr (stored.devices ?_)⟩
  · rintro x ⟨j, hj, rfl⟩
    exact apart j hj
  · rintro ⟨x, ⟨j, hj, rfl⟩, io⟩
    exact notIo ⟨j, hj, io⟩
  · rintro x ⟨j, hj, rfl⟩
    exact hd j hj

end Sys2Proof.Machine
